-- ==== Sys2Proof/Word.lean ====
section
/-! DEFINITION. The machine's words: every register but PC, every RAM, register-space and ROM datum is a byte (20_memory.md R80), PC and code addresses have 16 bits (10_state.md R34), the short jumps carry a 12-bit displacement (30_encoding.md R134). -/

namespace Sys2Proof

/-- A byte: the width of A, X, SP, F and of every memory access (20_memory.md R80). -/
abbrev Byte := BitVec 8

/-- A ROM address: the width of PC and of the `LJMP`/`LCALL` operand (10_state.md R34, 30_encoding.md R136). -/
abbrev Word := BitVec 16

/-- The 12-bit relative operand of format F2R, as it is encoded (30_encoding.md R134). -/
abbrev Disp := BitVec 12

end Sys2Proof
end

