-- ==== Sys2Proof/Syntax.lean ====
section
/-! DEFINITION. The instruction set as syntax: one constructor per row of spec/opcode_table.json (30_encoding.md R137), in the table's order. The operand registers and the addressing mode are implied by the opcode (R130, R151), so a constructor's arguments are the operand bytes: `k` of a one-operand form, `k1` then `k2` of a two-operand form. -/

namespace Sys2Proof

/-- The 136 rows of the opcode table (30_encoding.md R137). -/
inductive Instr where
  /-- `SSC`, byte 0 0x00, format F1: 45_system.md R424. -/
  | ssc
  /-- `ADD A, expr`, byte 0 0x01, format F2D: 40_arithmetic.md R209. -/
  | addAImm (k : Byte)
  /-- `ADD A, [expr]`, byte 0 0x02, format F2A: 40_arithmetic.md R210. -/
  | addADir (k : Byte)
  /-- `ADD A, [X+expr]`, byte 0 0x03, format F2A: 40_arithmetic.md R211. -/
  | addAIdx (k : Byte)
  /-- `ADD [expr], A`, byte 0 0x04, format F2A: 40_arithmetic.md R212. -/
  | addDirA (k : Byte)
  /-- `ADD [X+expr], A`, byte 0 0x05, format F2A: 40_arithmetic.md R213. -/
  | addIdxA (k : Byte)
  /-- `ADD [expr], expr`, byte 0 0x06, format F3AD: 40_arithmetic.md R214. -/
  | addDirImm (k1 : Byte) (k2 : Byte)
  /-- `ADD [X+expr], expr`, byte 0 0x07, format F3AD: 40_arithmetic.md R215. -/
  | addIdxImm (k1 : Byte) (k2 : Byte)
  /-- `PUSH A`, byte 0 0x08, format F1: 44_data_movement.md R396. -/
  | pushA
  /-- `ADC A, expr`, byte 0 0x09, format F2D: 40_arithmetic.md R202. -/
  | adcAImm (k : Byte)
  /-- `ADC A, [expr]`, byte 0 0x0A, format F2A: 40_arithmetic.md R203. -/
  | adcADir (k : Byte)
  /-- `ADC A, [X+expr]`, byte 0 0x0B, format F2A: 40_arithmetic.md R204. -/
  | adcAIdx (k : Byte)
  /-- `ADC [expr], A`, byte 0 0x0C, format F2A: 40_arithmetic.md R205. -/
  | adcDirA (k : Byte)
  /-- `ADC [X+expr], A`, byte 0 0x0D, format F2A: 40_arithmetic.md R206. -/
  | adcIdxA (k : Byte)
  /-- `ADC [expr], expr`, byte 0 0x0E, format F3AD: 40_arithmetic.md R207. -/
  | adcDirImm (k1 : Byte) (k2 : Byte)
  /-- `ADC [X+expr], expr`, byte 0 0x0F, format F3AD: 40_arithmetic.md R208. -/
  | adcIdxImm (k1 : Byte) (k2 : Byte)
  /-- `PUSH X`, byte 0 0x10, format F1: 44_data_movement.md R397. -/
  | pushX
  /-- `SUB A, expr`, byte 0 0x11, format F2D: 40_arithmetic.md R237. -/
  | subAImm (k : Byte)
  /-- `SUB A, [expr]`, byte 0 0x12, format F2A: 40_arithmetic.md R238. -/
  | subADir (k : Byte)
  /-- `SUB A, [X+expr]`, byte 0 0x13, format F2A: 40_arithmetic.md R239. -/
  | subAIdx (k : Byte)
  /-- `SUB [expr], A`, byte 0 0x14, format F2A: 40_arithmetic.md R240. -/
  | subDirA (k : Byte)
  /-- `SUB [X+expr], A`, byte 0 0x15, format F2A: 40_arithmetic.md R241. -/
  | subIdxA (k : Byte)
  /-- `SUB [expr], expr`, byte 0 0x16, format F3AD: 40_arithmetic.md R242. -/
  | subDirImm (k1 : Byte) (k2 : Byte)
  /-- `SUB [X+expr], expr`, byte 0 0x17, format F3AD: 40_arithmetic.md R243. -/
  | subIdxImm (k1 : Byte) (k2 : Byte)
  /-- `POP A`, byte 0 0x18, format F1: 44_data_movement.md R394. -/
  | popA
  /-- `SBB A, expr`, byte 0 0x19, format F2D: 40_arithmetic.md R230. -/
  | sbbAImm (k : Byte)
  /-- `SBB A, [expr]`, byte 0 0x1A, format F2A: 40_arithmetic.md R231. -/
  | sbbADir (k : Byte)
  /-- `SBB A, [X+expr]`, byte 0 0x1B, format F2A: 40_arithmetic.md R232. -/
  | sbbAIdx (k : Byte)
  /-- `SBB [expr], A`, byte 0 0x1C, format F2A: 40_arithmetic.md R233. -/
  | sbbDirA (k : Byte)
  /-- `SBB [X+expr], A`, byte 0 0x1D, format F2A: 40_arithmetic.md R234. -/
  | sbbIdxA (k : Byte)
  /-- `SBB [expr], expr`, byte 0 0x1E, format F3AD: 40_arithmetic.md R235. -/
  | sbbDirImm (k1 : Byte) (k2 : Byte)
  /-- `SBB [X+expr], expr`, byte 0 0x1F, format F3AD: 40_arithmetic.md R236. -/
  | sbbIdxImm (k1 : Byte) (k2 : Byte)
  /-- `POP X`, byte 0 0x20, format F1: 44_data_movement.md R395. -/
  | popX
  /-- `AND A, expr`, byte 0 0x21, format F2D: 41_logical.md R263. -/
  | andAImm (k : Byte)
  /-- `AND A, [expr]`, byte 0 0x22, format F2A: 41_logical.md R264. -/
  | andADir (k : Byte)
  /-- `AND A, [X+expr]`, byte 0 0x23, format F2A: 41_logical.md R265. -/
  | andAIdx (k : Byte)
  /-- `AND [expr], A`, byte 0 0x24, format F2A: 41_logical.md R266. -/
  | andDirA (k : Byte)
  /-- `AND [X+expr], A`, byte 0 0x25, format F2A: 41_logical.md R267. -/
  | andIdxA (k : Byte)
  /-- `AND [expr], expr`, byte 0 0x26, format F3AD: 41_logical.md R268. -/
  | andDirImm (k1 : Byte) (k2 : Byte)
  /-- `AND [X+expr], expr`, byte 0 0x27, format F3AD: 41_logical.md R269. -/
  | andIdxImm (k1 : Byte) (k2 : Byte)
  /-- `ROMX`, byte 0 0x28, format F1: 44_data_movement.md R400. -/
  | romx
  /-- `OR A, expr`, byte 0 0x29, format F2D: 41_logical.md R274. -/
  | orAImm (k : Byte)
  /-- `OR A, [expr]`, byte 0 0x2A, format F2A: 41_logical.md R275. -/
  | orADir (k : Byte)
  /-- `OR A, [X+expr]`, byte 0 0x2B, format F2A: 41_logical.md R276. -/
  | orAIdx (k : Byte)
  /-- `OR [expr], A`, byte 0 0x2C, format F2A: 41_logical.md R277. -/
  | orDirA (k : Byte)
  /-- `OR [X+expr], A`, byte 0 0x2D, format F2A: 41_logical.md R278. -/
  | orIdxA (k : Byte)
  /-- `OR [expr], expr`, byte 0 0x2E, format F3AD: 41_logical.md R279. -/
  | orDirImm (k1 : Byte) (k2 : Byte)
  /-- `OR [X+expr], expr`, byte 0 0x2F, format F3AD: 41_logical.md R280. -/
  | orIdxImm (k1 : Byte) (k2 : Byte)
  /-- `HALT`, byte 0 0x30, format F1: 45_system.md R420. -/
  | halt
  /-- `XOR A, expr`, byte 0 0x31, format F2D: 41_logical.md R288. -/
  | xorAImm (k : Byte)
  /-- `XOR A, [expr]`, byte 0 0x32, format F2A: 41_logical.md R289. -/
  | xorADir (k : Byte)
  /-- `XOR A, [X+expr]`, byte 0 0x33, format F2A: 41_logical.md R290. -/
  | xorAIdx (k : Byte)
  /-- `XOR [expr], A`, byte 0 0x34, format F2A: 41_logical.md R291. -/
  | xorDirA (k : Byte)
  /-- `XOR [X+expr], A`, byte 0 0x35, format F2A: 41_logical.md R292. -/
  | xorIdxA (k : Byte)
  /-- `XOR [expr], expr`, byte 0 0x36, format F3AD: 41_logical.md R293. -/
  | xorDirImm (k1 : Byte) (k2 : Byte)
  /-- `XOR [X+expr], expr`, byte 0 0x37, format F3AD: 41_logical.md R294. -/
  | xorIdxImm (k1 : Byte) (k2 : Byte)
  /-- `ADD SP, expr`, byte 0 0x38, format F2D: 40_arithmetic.md R216. -/
  | addSp (k : Byte)
  /-- `CMP A, expr`, byte 0 0x39, format F2D: 40_arithmetic.md R217. -/
  | cmpAImm (k : Byte)
  /-- `CMP A, [expr]`, byte 0 0x3A, format F2A: 40_arithmetic.md R218. -/
  | cmpADir (k : Byte)
  /-- `CMP A, [X+expr]`, byte 0 0x3B, format F2A: 40_arithmetic.md R219. -/
  | cmpAIdx (k : Byte)
  /-- `CMP [expr], expr`, byte 0 0x3C, format F3AD: 40_arithmetic.md R220. -/
  | cmpDirImm (k1 : Byte) (k2 : Byte)
  /-- `CMP [X+expr], expr`, byte 0 0x3D, format F3AD: 40_arithmetic.md R221. -/
  | cmpIdxImm (k1 : Byte) (k2 : Byte)
  /-- `MVI A, [[expr]++]`, byte 0 0x3E, format F2A: 44_data_movement.md R392. -/
  | mviRead (k : Byte)
  /-- `MVI [[expr]++], A`, byte 0 0x3F, format F2A: 44_data_movement.md R393. -/
  | mviWrite (k : Byte)
  /-- `NOP`, byte 0 0x40, format F1: 45_system.md R422. -/
  | nop
  /-- `AND reg[expr], expr`, byte 0 0x41, format F3AD: 41_logical.md R270. -/
  | andReg (k1 : Byte) (k2 : Byte)
  /-- `AND reg[X+expr], expr`, byte 0 0x42, format F3AD: 41_logical.md R271. -/
  | andRegIdx (k1 : Byte) (k2 : Byte)
  /-- `OR reg[expr], expr`, byte 0 0x43, format F3AD: 41_logical.md R281. -/
  | orReg (k1 : Byte) (k2 : Byte)
  /-- `OR reg[X+expr], expr`, byte 0 0x44, format F3AD: 41_logical.md R282. -/
  | orRegIdx (k1 : Byte) (k2 : Byte)
  /-- `XOR reg[expr], expr`, byte 0 0x45, format F3AD: 41_logical.md R295. -/
  | xorReg (k1 : Byte) (k2 : Byte)
  /-- `XOR reg[X+expr], expr`, byte 0 0x46, format F3AD: 41_logical.md R296. -/
  | xorRegIdx (k1 : Byte) (k2 : Byte)
  /-- `TST [expr], expr`, byte 0 0x47, format F3AD: 41_logical.md R284. -/
  | tstDir (k1 : Byte) (k2 : Byte)
  /-- `TST [X+expr], expr`, byte 0 0x48, format F3AD: 41_logical.md R285. -/
  | tstIdx (k1 : Byte) (k2 : Byte)
  /-- `TST reg[expr], expr`, byte 0 0x49, format F3AD: 41_logical.md R286. -/
  | tstReg (k1 : Byte) (k2 : Byte)
  /-- `TST reg[X+expr], expr`, byte 0 0x4A, format F3AD: 41_logical.md R287. -/
  | tstRegIdx (k1 : Byte) (k2 : Byte)
  /-- `SWAP A, X`, byte 0 0x4B, format F1: 44_data_movement.md R401. -/
  | swapAX
  /-- `SWAP A, [expr]`, byte 0 0x4C, format F2A: 44_data_movement.md R402. -/
  | swapADir (k : Byte)
  /-- `SWAP X, [expr]`, byte 0 0x4D, format F2A: 44_data_movement.md R403. -/
  | swapXDir (k : Byte)
  /-- `SWAP A, SP`, byte 0 0x4E, format F1: 44_data_movement.md R404. -/
  | swapASp
  /-- `MOV X, SP`, byte 0 0x4F, format F1: 44_data_movement.md R362. -/
  | movXSp
  /-- `MOV A, expr`, byte 0 0x50, format F2D: 44_data_movement.md R363. -/
  | movAImm (k : Byte)
  /-- `MOV A, [expr]`, byte 0 0x51, format F2A: 44_data_movement.md R364. -/
  | movADir (k : Byte)
  /-- `MOV A, [X+expr]`, byte 0 0x52, format F2A: 44_data_movement.md R365. -/
  | movAIdx (k : Byte)
  /-- `MOV [expr], A`, byte 0 0x53, format F2A: 44_data_movement.md R366. -/
  | movDirA (k : Byte)
  /-- `MOV [X+expr], A`, byte 0 0x54, format F2A: 44_data_movement.md R367. -/
  | movIdxA (k : Byte)
  /-- `MOV [expr], expr`, byte 0 0x55, format F3AD: 44_data_movement.md R368. -/
  | movDirImm (k1 : Byte) (k2 : Byte)
  /-- `MOV [X+expr], expr`, byte 0 0x56, format F3AD: 44_data_movement.md R369. -/
  | movIdxImm (k1 : Byte) (k2 : Byte)
  /-- `MOV X, expr`, byte 0 0x57, format F2D: 44_data_movement.md R370. -/
  | movXImm (k : Byte)
  /-- `MOV X, [expr]`, byte 0 0x58, format F2A: 44_data_movement.md R371. -/
  | movXDir (k : Byte)
  /-- `MOV X, [X+expr]`, byte 0 0x59, format F2A: 44_data_movement.md R372. -/
  | movXIdx (k : Byte)
  /-- `MOV [expr], X`, byte 0 0x5A, format F2A: 44_data_movement.md R373. -/
  | movDirX (k : Byte)
  /-- `MOV A, X`, byte 0 0x5B, format F1: 44_data_movement.md R374. -/
  | movAX
  /-- `MOV X, A`, byte 0 0x5C, format F1: 44_data_movement.md R375. -/
  | movXA
  /-- `MOV A, reg[expr]`, byte 0 0x5D, format F2A: 44_data_movement.md R376. -/
  | movAReg (k : Byte)
  /-- `MOV A, reg[X+expr]`, byte 0 0x5E, format F2A: 44_data_movement.md R377. -/
  | movARegIdx (k : Byte)
  /-- `MOV [expr], [expr]`, byte 0 0x5F, format F3AA: 44_data_movement.md R378. -/
  | movDirDir (k1 : Byte) (k2 : Byte)
  /-- `MOV reg[expr], A`, byte 0 0x60, format F2A: 44_data_movement.md R379. -/
  | movRegA (k : Byte)
  /-- `MOV reg[X+expr], A`, byte 0 0x61, format F2A: 44_data_movement.md R380. -/
  | movRegIdxA (k : Byte)
  /-- `MOV reg[expr], expr`, byte 0 0x62, format F3AD: 44_data_movement.md R381. -/
  | movRegImm (k1 : Byte) (k2 : Byte)
  /-- `MOV reg[X+expr], expr`, byte 0 0x63, format F3AD: 44_data_movement.md R382. -/
  | movRegIdxImm (k1 : Byte) (k2 : Byte)
  /-- `ASL A`, byte 0 0x64, format F1: 42_shift_rotate.md R311. -/
  | aslA
  /-- `ASL [expr]`, byte 0 0x65, format F2A: 42_shift_rotate.md R312. -/
  | aslDir (k : Byte)
  /-- `ASL [X+expr]`, byte 0 0x66, format F2A: 42_shift_rotate.md R313. -/
  | aslIdx (k : Byte)
  /-- `ASR A`, byte 0 0x67, format F1: 42_shift_rotate.md R314. -/
  | asrA
  /-- `ASR [expr]`, byte 0 0x68, format F2A: 42_shift_rotate.md R315. -/
  | asrDir (k : Byte)
  /-- `ASR [X+expr]`, byte 0 0x69, format F2A: 42_shift_rotate.md R316. -/
  | asrIdx (k : Byte)
  /-- `RLC A`, byte 0 0x6A, format F1: 42_shift_rotate.md R317. -/
  | rlcA
  /-- `RLC [expr]`, byte 0 0x6B, format F2A: 42_shift_rotate.md R318. -/
  | rlcDir (k : Byte)
  /-- `RLC [X+expr]`, byte 0 0x6C, format F2A: 42_shift_rotate.md R319. -/
  | rlcIdx (k : Byte)
  /-- `RRC A`, byte 0 0x6D, format F1: 42_shift_rotate.md R320. -/
  | rrcA
  /-- `RRC [expr]`, byte 0 0x6E, format F2A: 42_shift_rotate.md R321. -/
  | rrcDir (k : Byte)
  /-- `RRC [X+expr]`, byte 0 0x6F, format F2A: 42_shift_rotate.md R322. -/
  | rrcIdx (k : Byte)
  /-- `AND F, expr`, byte 0 0x70, format F2D: 41_logical.md R272. -/
  | andF (k : Byte)
  /-- `OR F, expr`, byte 0 0x71, format F2D: 41_logical.md R283. -/
  | orF (k : Byte)
  /-- `XOR F, expr`, byte 0 0x72, format F2D: 41_logical.md R297. -/
  | xorF (k : Byte)
  /-- `CPL A`, byte 0 0x73, format F1: 41_logical.md R273. -/
  | cplA
  /-- `INC A`, byte 0 0x74, format F1: 40_arithmetic.md R226. -/
  | incA
  /-- `INC X`, byte 0 0x75, format F1: 40_arithmetic.md R227. -/
  | incX
  /-- `INC [expr]`, byte 0 0x76, format F2A: 40_arithmetic.md R228. -/
  | incDir (k : Byte)
  /-- `INC [X+expr]`, byte 0 0x77, format F2A: 40_arithmetic.md R229. -/
  | incIdx (k : Byte)
  /-- `DEC A`, byte 0 0x78, format F1: 40_arithmetic.md R222. -/
  | decA
  /-- `DEC X`, byte 0 0x79, format F1: 40_arithmetic.md R223. -/
  | decX
  /-- `DEC [expr]`, byte 0 0x7A, format F2A: 40_arithmetic.md R224. -/
  | decDir (k : Byte)
  /-- `DEC [X+expr]`, byte 0 0x7B, format F2A: 40_arithmetic.md R225. -/
  | decIdx (k : Byte)
  /-- `LCALL expr`, byte 0 0x7C, format F3L: 43_control_transfer.md R339. -/
  | lcall (k : Word)
  /-- `LJMP expr`, byte 0 0x7D, format F3L: 43_control_transfer.md R340. -/
  | ljmp (k : Word)
  /-- `RETI`, byte 0 0x7E, format F1: 45_system.md R423. -/
  | reti
  /-- `RET`, byte 0 0x7F, format F1: 43_control_transfer.md R341. -/
  | ret
  /-- `JMP expr`, byte 0 0x80 to 0x8F, format F2R: 43_control_transfer.md R335. -/
  | jmp (k : Disp)
  /-- `CALL expr`, byte 0 0x90 to 0x9F, format F2R: 43_control_transfer.md R332. -/
  | call (k : Disp)
  /-- `JZ expr`, byte 0 0xA0 to 0xAF, format F2R: 43_control_transfer.md R338. -/
  | jz (k : Disp)
  /-- `JNZ expr`, byte 0 0xB0 to 0xBF, format F2R: 43_control_transfer.md R337. -/
  | jnz (k : Disp)
  /-- `JC expr`, byte 0 0xC0 to 0xCF, format F2R: 43_control_transfer.md R334. -/
  | jc (k : Disp)
  /-- `JNC expr`, byte 0 0xD0 to 0xDF, format F2R: 43_control_transfer.md R336. -/
  | jnc (k : Disp)
  /-- `JACC expr`, byte 0 0xE0 to 0xEF, format F2R: 43_control_transfer.md R333. -/
  | jacc (k : Disp)
  /-- `INDEX expr`, byte 0 0xF0 to 0xFF, format F2R: 44_data_movement.md R361. -/
  | index (k : Disp)
  deriving DecidableEq, Repr

end Sys2Proof
end

