-- ==== Sys2Proof/Decode.lean ====
section
/-! DEFINITION. Decoding: the opcode map of 30_encoding.md R137 as a list of rows, the operand assembly of R134 to R136, a decoder that is total on any bytes, and after it the encoder. -/

namespace Sys2Proof

/-- A row of the opcode map: the format of 30_encoding.md R131 with the instruction it makes from its operands. F2D and
F2A have one bit layout (`f2`), and so have F3AD and F3AA (`f3`). -/
inductive Row where
  /-- F1: no operand bytes. -/
  | f1 (i : Instr)
  /-- F2D, F2A: `k = b1` (R135). -/
  | f2 (mk : Byte → Instr)
  /-- F3AD, F3AA: `k1 = b1`, `k2 = b2` (R135). -/
  | f3 (mk : Byte → Byte → Instr)
  /-- F3L: `k = {b1, b2}`, most significant byte first (R136). -/
  | f3l (mk : Word → Instr)
  /-- F2R: `k12 = {op[3:0], b1}` (R134). -/
  | f2r (mk : Disp → Instr)

/-- Bytes of an instruction of this row (30_encoding.md R131). -/
def Row.length : Row → Nat
  | .f1 _ => 1
  | .f2 _ => 2
  | .f3 _ => 3
  | .f3l _ => 3
  | .f2r _ => 2

/-- Opcode map, byte 0 from 0x00 to 0x0F (30_encoding.md R137). -/
def opcodeMap0 : List Row :=
  [.f1 .ssc,
   .f2 Instr.addAImm,
   .f2 Instr.addADir,
   .f2 Instr.addAIdx,
   .f2 Instr.addDirA,
   .f2 Instr.addIdxA,
   .f3 Instr.addDirImm,
   .f3 Instr.addIdxImm,
   .f1 .pushA,
   .f2 Instr.adcAImm,
   .f2 Instr.adcADir,
   .f2 Instr.adcAIdx,
   .f2 Instr.adcDirA,
   .f2 Instr.adcIdxA,
   .f3 Instr.adcDirImm,
   .f3 Instr.adcIdxImm]

/-- Opcode map, byte 0 from 0x10 to 0x1F (30_encoding.md R137). -/
def opcodeMap1 : List Row :=
  [.f1 .pushX,
   .f2 Instr.subAImm,
   .f2 Instr.subADir,
   .f2 Instr.subAIdx,
   .f2 Instr.subDirA,
   .f2 Instr.subIdxA,
   .f3 Instr.subDirImm,
   .f3 Instr.subIdxImm,
   .f1 .popA,
   .f2 Instr.sbbAImm,
   .f2 Instr.sbbADir,
   .f2 Instr.sbbAIdx,
   .f2 Instr.sbbDirA,
   .f2 Instr.sbbIdxA,
   .f3 Instr.sbbDirImm,
   .f3 Instr.sbbIdxImm]

/-- Opcode map, byte 0 from 0x20 to 0x2F (30_encoding.md R137). -/
def opcodeMap2 : List Row :=
  [.f1 .popX,
   .f2 Instr.andAImm,
   .f2 Instr.andADir,
   .f2 Instr.andAIdx,
   .f2 Instr.andDirA,
   .f2 Instr.andIdxA,
   .f3 Instr.andDirImm,
   .f3 Instr.andIdxImm,
   .f1 .romx,
   .f2 Instr.orAImm,
   .f2 Instr.orADir,
   .f2 Instr.orAIdx,
   .f2 Instr.orDirA,
   .f2 Instr.orIdxA,
   .f3 Instr.orDirImm,
   .f3 Instr.orIdxImm]

/-- Opcode map, byte 0 from 0x30 to 0x3F (30_encoding.md R137). -/
def opcodeMap3 : List Row :=
  [.f1 .halt,
   .f2 Instr.xorAImm,
   .f2 Instr.xorADir,
   .f2 Instr.xorAIdx,
   .f2 Instr.xorDirA,
   .f2 Instr.xorIdxA,
   .f3 Instr.xorDirImm,
   .f3 Instr.xorIdxImm,
   .f2 Instr.addSp,
   .f2 Instr.cmpAImm,
   .f2 Instr.cmpADir,
   .f2 Instr.cmpAIdx,
   .f3 Instr.cmpDirImm,
   .f3 Instr.cmpIdxImm,
   .f2 Instr.mviRead,
   .f2 Instr.mviWrite]

/-- Opcode map, byte 0 from 0x40 to 0x4F (30_encoding.md R137). -/
def opcodeMap4 : List Row :=
  [.f1 .nop,
   .f3 Instr.andReg,
   .f3 Instr.andRegIdx,
   .f3 Instr.orReg,
   .f3 Instr.orRegIdx,
   .f3 Instr.xorReg,
   .f3 Instr.xorRegIdx,
   .f3 Instr.tstDir,
   .f3 Instr.tstIdx,
   .f3 Instr.tstReg,
   .f3 Instr.tstRegIdx,
   .f1 .swapAX,
   .f2 Instr.swapADir,
   .f2 Instr.swapXDir,
   .f1 .swapASp,
   .f1 .movXSp]

/-- Opcode map, byte 0 from 0x50 to 0x5F (30_encoding.md R137). -/
def opcodeMap5 : List Row :=
  [.f2 Instr.movAImm,
   .f2 Instr.movADir,
   .f2 Instr.movAIdx,
   .f2 Instr.movDirA,
   .f2 Instr.movIdxA,
   .f3 Instr.movDirImm,
   .f3 Instr.movIdxImm,
   .f2 Instr.movXImm,
   .f2 Instr.movXDir,
   .f2 Instr.movXIdx,
   .f2 Instr.movDirX,
   .f1 .movAX,
   .f1 .movXA,
   .f2 Instr.movAReg,
   .f2 Instr.movARegIdx,
   .f3 Instr.movDirDir]

/-- Opcode map, byte 0 from 0x60 to 0x6F (30_encoding.md R137). -/
def opcodeMap6 : List Row :=
  [.f2 Instr.movRegA,
   .f2 Instr.movRegIdxA,
   .f3 Instr.movRegImm,
   .f3 Instr.movRegIdxImm,
   .f1 .aslA,
   .f2 Instr.aslDir,
   .f2 Instr.aslIdx,
   .f1 .asrA,
   .f2 Instr.asrDir,
   .f2 Instr.asrIdx,
   .f1 .rlcA,
   .f2 Instr.rlcDir,
   .f2 Instr.rlcIdx,
   .f1 .rrcA,
   .f2 Instr.rrcDir,
   .f2 Instr.rrcIdx]

/-- Opcode map, byte 0 from 0x70 to 0x7F (30_encoding.md R137). -/
def opcodeMap7 : List Row :=
  [.f2 Instr.andF,
   .f2 Instr.orF,
   .f2 Instr.xorF,
   .f1 .cplA,
   .f1 .incA,
   .f1 .incX,
   .f2 Instr.incDir,
   .f2 Instr.incIdx,
   .f1 .decA,
   .f1 .decX,
   .f2 Instr.decDir,
   .f2 Instr.decIdx,
   .f3l Instr.lcall,
   .f3l Instr.ljmp,
   .f1 .reti,
   .f1 .ret]

/-- The 128 full 8-bit opcodes, 0x00 to 0x7F (30_encoding.md R137). -/
def opcodeMap : List Row :=
  opcodeMap0 ++ opcodeMap1 ++ opcodeMap2 ++ opcodeMap3 ++ opcodeMap4 ++ opcodeMap5 ++ opcodeMap6 ++ opcodeMap7

/-- The eight 4-bit opcodes, upper nibble 0x8 to 0xF (30_encoding.md R137). -/
def relMap : List Row :=
  [.f2r Instr.jmp, .f2r Instr.call, .f2r Instr.jz, .f2r Instr.jnz, .f2r Instr.jc, .f2r Instr.jnc, .f2r Instr.jacc, .f2r Instr.index]

/-- The row that byte 0 selects (30_encoding.md R137): the whole byte below 0x80, the upper nibble from 0x80 on. -/
def opcodeRow (b0 : Byte) : Option Row :=
  if b0.toNat < 128 then opcodeMap[b0.toNat]? else relMap[b0.toNat / 16 - 8]?

/-- The length of the instruction that byte 0 begins: 1, 2 or 3, a function of byte 0 alone (30_encoding.md R130,
R133). -/
def opcodeLength (b0 : Byte) : Nat :=
  match opcodeRow b0 with
  | some r => r.length
  | none => 1

/-- The 12-bit relative operand `{op[3:0], b1}` (30_encoding.md R134). -/
def relOperand (b0 b1 : Byte) : Disp := b0.extractLsb' 0 4 ++ b1

/-- What the decoder answers. -/
inductive DecodeResult where
  /-- An instruction and the bytes after it. -/
  | instr (i : Instr) (rest : List Byte)
  /-- Rejected: the bytes end before the instruction does. -/
  | truncated
  /-- Rejected: no row of the map. No byte 0 is answered so (30_encoding.md R138). -/
  | unassigned
  deriving DecidableEq, Repr

/-- The instruction of a row, from byte 0 and the bytes that follow it. -/
def decodeRow : Row → Byte → List Byte → DecodeResult
  | .f1 i, _, bs => .instr i bs
  | .f2 mk, _, b1 :: bs => .instr (mk b1) bs
  | .f3 mk, _, b1 :: b2 :: bs => .instr (mk b1 b2) bs
  | .f3l mk, _, b1 :: b2 :: bs => .instr (mk (b1 ++ b2)) bs
  | .f2r mk, b0, b1 :: bs => .instr (mk (relOperand b0 b1)) bs
  | .f2 _, _, [] => .truncated
  | .f3 _, _, [] => .truncated
  | .f3 _, _, [_] => .truncated
  | .f3l _, _, [] => .truncated
  | .f3l _, _, [_] => .truncated
  | .f2r _, _, [] => .truncated

/-- The decoder: reads byte 0, looks up its row, assembles the operands from the bytes that follow
(30_encoding.md R133 to R137). Total on any bytes. -/
def decode : List Byte → DecodeResult
  | [] => .truncated
  | b0 :: bs =>
    match opcodeRow b0 with
    | some r => decodeRow r b0 bs
    | none => .unassigned

/-- The instruction whose bits are `w`, bit 0 the least significant bit of byte 0 and each later byte counting on, every
bit from `nbits` on being 0: its bytes at ascending addresses are given to the decoder (30_encoding.md R133). -/
def decodeTableWord (nbits w : Nat) : Option Instr :=
  let v := w % 2 ^ nbits
  match decode [BitVec.ofNat 8 v, BitVec.ofNat 8 (v / 256), BitVec.ofNat 8 (v / 65536)] with
  | .instr i _ => some i
  | .truncated => none
  | .unassigned => none

/-- Format F2R encoded: the 4-bit opcode and the operand's upper 4 bits, then its lower 8 bits (30_encoding.md R134). -/
def encodeRel (op : BitVec 4) (k : Disp) : List Byte := [op ++ k.extractLsb' 8 4, k.extractLsb' 0 8]

/-- Format F3L encoded: the opcode, then the operand, most significant byte first (30_encoding.md R136). -/
def encodeLong (op : Byte) (k : Word) : List Byte := [op, k.extractLsb' 8 8, k.extractLsb' 0 8]

/-- The encoder: the bytes of an instruction, byte 0 first (30_encoding.md R131, R134 to R137). -/
def encode : Instr → List Byte
  | .ssc => [0x00#8]
  | .addAImm k => [0x01#8, k]
  | .addADir k => [0x02#8, k]
  | .addAIdx k => [0x03#8, k]
  | .addDirA k => [0x04#8, k]
  | .addIdxA k => [0x05#8, k]
  | .addDirImm k1 k2 => [0x06#8, k1, k2]
  | .addIdxImm k1 k2 => [0x07#8, k1, k2]
  | .pushA => [0x08#8]
  | .adcAImm k => [0x09#8, k]
  | .adcADir k => [0x0A#8, k]
  | .adcAIdx k => [0x0B#8, k]
  | .adcDirA k => [0x0C#8, k]
  | .adcIdxA k => [0x0D#8, k]
  | .adcDirImm k1 k2 => [0x0E#8, k1, k2]
  | .adcIdxImm k1 k2 => [0x0F#8, k1, k2]
  | .pushX => [0x10#8]
  | .subAImm k => [0x11#8, k]
  | .subADir k => [0x12#8, k]
  | .subAIdx k => [0x13#8, k]
  | .subDirA k => [0x14#8, k]
  | .subIdxA k => [0x15#8, k]
  | .subDirImm k1 k2 => [0x16#8, k1, k2]
  | .subIdxImm k1 k2 => [0x17#8, k1, k2]
  | .popA => [0x18#8]
  | .sbbAImm k => [0x19#8, k]
  | .sbbADir k => [0x1A#8, k]
  | .sbbAIdx k => [0x1B#8, k]
  | .sbbDirA k => [0x1C#8, k]
  | .sbbIdxA k => [0x1D#8, k]
  | .sbbDirImm k1 k2 => [0x1E#8, k1, k2]
  | .sbbIdxImm k1 k2 => [0x1F#8, k1, k2]
  | .popX => [0x20#8]
  | .andAImm k => [0x21#8, k]
  | .andADir k => [0x22#8, k]
  | .andAIdx k => [0x23#8, k]
  | .andDirA k => [0x24#8, k]
  | .andIdxA k => [0x25#8, k]
  | .andDirImm k1 k2 => [0x26#8, k1, k2]
  | .andIdxImm k1 k2 => [0x27#8, k1, k2]
  | .romx => [0x28#8]
  | .orAImm k => [0x29#8, k]
  | .orADir k => [0x2A#8, k]
  | .orAIdx k => [0x2B#8, k]
  | .orDirA k => [0x2C#8, k]
  | .orIdxA k => [0x2D#8, k]
  | .orDirImm k1 k2 => [0x2E#8, k1, k2]
  | .orIdxImm k1 k2 => [0x2F#8, k1, k2]
  | .halt => [0x30#8]
  | .xorAImm k => [0x31#8, k]
  | .xorADir k => [0x32#8, k]
  | .xorAIdx k => [0x33#8, k]
  | .xorDirA k => [0x34#8, k]
  | .xorIdxA k => [0x35#8, k]
  | .xorDirImm k1 k2 => [0x36#8, k1, k2]
  | .xorIdxImm k1 k2 => [0x37#8, k1, k2]
  | .addSp k => [0x38#8, k]
  | .cmpAImm k => [0x39#8, k]
  | .cmpADir k => [0x3A#8, k]
  | .cmpAIdx k => [0x3B#8, k]
  | .cmpDirImm k1 k2 => [0x3C#8, k1, k2]
  | .cmpIdxImm k1 k2 => [0x3D#8, k1, k2]
  | .mviRead k => [0x3E#8, k]
  | .mviWrite k => [0x3F#8, k]
  | .nop => [0x40#8]
  | .andReg k1 k2 => [0x41#8, k1, k2]
  | .andRegIdx k1 k2 => [0x42#8, k1, k2]
  | .orReg k1 k2 => [0x43#8, k1, k2]
  | .orRegIdx k1 k2 => [0x44#8, k1, k2]
  | .xorReg k1 k2 => [0x45#8, k1, k2]
  | .xorRegIdx k1 k2 => [0x46#8, k1, k2]
  | .tstDir k1 k2 => [0x47#8, k1, k2]
  | .tstIdx k1 k2 => [0x48#8, k1, k2]
  | .tstReg k1 k2 => [0x49#8, k1, k2]
  | .tstRegIdx k1 k2 => [0x4A#8, k1, k2]
  | .swapAX => [0x4B#8]
  | .swapADir k => [0x4C#8, k]
  | .swapXDir k => [0x4D#8, k]
  | .swapASp => [0x4E#8]
  | .movXSp => [0x4F#8]
  | .movAImm k => [0x50#8, k]
  | .movADir k => [0x51#8, k]
  | .movAIdx k => [0x52#8, k]
  | .movDirA k => [0x53#8, k]
  | .movIdxA k => [0x54#8, k]
  | .movDirImm k1 k2 => [0x55#8, k1, k2]
  | .movIdxImm k1 k2 => [0x56#8, k1, k2]
  | .movXImm k => [0x57#8, k]
  | .movXDir k => [0x58#8, k]
  | .movXIdx k => [0x59#8, k]
  | .movDirX k => [0x5A#8, k]
  | .movAX => [0x5B#8]
  | .movXA => [0x5C#8]
  | .movAReg k => [0x5D#8, k]
  | .movARegIdx k => [0x5E#8, k]
  | .movDirDir k1 k2 => [0x5F#8, k1, k2]
  | .movRegA k => [0x60#8, k]
  | .movRegIdxA k => [0x61#8, k]
  | .movRegImm k1 k2 => [0x62#8, k1, k2]
  | .movRegIdxImm k1 k2 => [0x63#8, k1, k2]
  | .aslA => [0x64#8]
  | .aslDir k => [0x65#8, k]
  | .aslIdx k => [0x66#8, k]
  | .asrA => [0x67#8]
  | .asrDir k => [0x68#8, k]
  | .asrIdx k => [0x69#8, k]
  | .rlcA => [0x6A#8]
  | .rlcDir k => [0x6B#8, k]
  | .rlcIdx k => [0x6C#8, k]
  | .rrcA => [0x6D#8]
  | .rrcDir k => [0x6E#8, k]
  | .rrcIdx k => [0x6F#8, k]
  | .andF k => [0x70#8, k]
  | .orF k => [0x71#8, k]
  | .xorF k => [0x72#8, k]
  | .cplA => [0x73#8]
  | .incA => [0x74#8]
  | .incX => [0x75#8]
  | .incDir k => [0x76#8, k]
  | .incIdx k => [0x77#8, k]
  | .decA => [0x78#8]
  | .decX => [0x79#8]
  | .decDir k => [0x7A#8, k]
  | .decIdx k => [0x7B#8, k]
  | .lcall k => encodeLong 0x7C#8 k
  | .ljmp k => encodeLong 0x7D#8 k
  | .reti => [0x7E#8]
  | .ret => [0x7F#8]
  | .jmp k => encodeRel 0x8#4 k
  | .call k => encodeRel 0x9#4 k
  | .jz k => encodeRel 0xA#4 k
  | .jnz k => encodeRel 0xB#4 k
  | .jc k => encodeRel 0xC#4 k
  | .jnc k => encodeRel 0xD#4 k
  | .jacc k => encodeRel 0xE#4 k
  | .index k => encodeRel 0xF#4 k

/-- The length of an instruction in bytes, its row's "bytes" column (30_encoding.md R137). -/
def Instr.length : Instr → Nat
  | .ssc => 1
  | .addAImm _ => 2
  | .addADir _ => 2
  | .addAIdx _ => 2
  | .addDirA _ => 2
  | .addIdxA _ => 2
  | .addDirImm _ _ => 3
  | .addIdxImm _ _ => 3
  | .pushA => 1
  | .adcAImm _ => 2
  | .adcADir _ => 2
  | .adcAIdx _ => 2
  | .adcDirA _ => 2
  | .adcIdxA _ => 2
  | .adcDirImm _ _ => 3
  | .adcIdxImm _ _ => 3
  | .pushX => 1
  | .subAImm _ => 2
  | .subADir _ => 2
  | .subAIdx _ => 2
  | .subDirA _ => 2
  | .subIdxA _ => 2
  | .subDirImm _ _ => 3
  | .subIdxImm _ _ => 3
  | .popA => 1
  | .sbbAImm _ => 2
  | .sbbADir _ => 2
  | .sbbAIdx _ => 2
  | .sbbDirA _ => 2
  | .sbbIdxA _ => 2
  | .sbbDirImm _ _ => 3
  | .sbbIdxImm _ _ => 3
  | .popX => 1
  | .andAImm _ => 2
  | .andADir _ => 2
  | .andAIdx _ => 2
  | .andDirA _ => 2
  | .andIdxA _ => 2
  | .andDirImm _ _ => 3
  | .andIdxImm _ _ => 3
  | .romx => 1
  | .orAImm _ => 2
  | .orADir _ => 2
  | .orAIdx _ => 2
  | .orDirA _ => 2
  | .orIdxA _ => 2
  | .orDirImm _ _ => 3
  | .orIdxImm _ _ => 3
  | .halt => 1
  | .xorAImm _ => 2
  | .xorADir _ => 2
  | .xorAIdx _ => 2
  | .xorDirA _ => 2
  | .xorIdxA _ => 2
  | .xorDirImm _ _ => 3
  | .xorIdxImm _ _ => 3
  | .addSp _ => 2
  | .cmpAImm _ => 2
  | .cmpADir _ => 2
  | .cmpAIdx _ => 2
  | .cmpDirImm _ _ => 3
  | .cmpIdxImm _ _ => 3
  | .mviRead _ => 2
  | .mviWrite _ => 2
  | .nop => 1
  | .andReg _ _ => 3
  | .andRegIdx _ _ => 3
  | .orReg _ _ => 3
  | .orRegIdx _ _ => 3
  | .xorReg _ _ => 3
  | .xorRegIdx _ _ => 3
  | .tstDir _ _ => 3
  | .tstIdx _ _ => 3
  | .tstReg _ _ => 3
  | .tstRegIdx _ _ => 3
  | .swapAX => 1
  | .swapADir _ => 2
  | .swapXDir _ => 2
  | .swapASp => 1
  | .movXSp => 1
  | .movAImm _ => 2
  | .movADir _ => 2
  | .movAIdx _ => 2
  | .movDirA _ => 2
  | .movIdxA _ => 2
  | .movDirImm _ _ => 3
  | .movIdxImm _ _ => 3
  | .movXImm _ => 2
  | .movXDir _ => 2
  | .movXIdx _ => 2
  | .movDirX _ => 2
  | .movAX => 1
  | .movXA => 1
  | .movAReg _ => 2
  | .movARegIdx _ => 2
  | .movDirDir _ _ => 3
  | .movRegA _ => 2
  | .movRegIdxA _ => 2
  | .movRegImm _ _ => 3
  | .movRegIdxImm _ _ => 3
  | .aslA => 1
  | .aslDir _ => 2
  | .aslIdx _ => 2
  | .asrA => 1
  | .asrDir _ => 2
  | .asrIdx _ => 2
  | .rlcA => 1
  | .rlcDir _ => 2
  | .rlcIdx _ => 2
  | .rrcA => 1
  | .rrcDir _ => 2
  | .rrcIdx _ => 2
  | .andF _ => 2
  | .orF _ => 2
  | .xorF _ => 2
  | .cplA => 1
  | .incA => 1
  | .incX => 1
  | .incDir _ => 2
  | .incIdx _ => 2
  | .decA => 1
  | .decX => 1
  | .decDir _ => 2
  | .decIdx _ => 2
  | .lcall _ => 3
  | .ljmp _ => 3
  | .reti => 1
  | .ret => 1
  | .jmp _ => 2
  | .call _ => 2
  | .jz _ => 2
  | .jnz _ => 2
  | .jc _ => 2
  | .jnc _ => 2
  | .jacc _ => 2
  | .index _ => 2

end Sys2Proof
end

