-- ==== Sys2Proof/Machine/Flags.lean ====
section
/-! DEFINITION. The flag register's bits (10_state.md R36) and every computation of an operation's result and flags: each `Alu` function takes F as it stands and the operands and gives the result and the new F. Results are formed exactly as integers and then narrowed, so that carry and borrow are comparisons with the exact result (40_arithmetic.md R200). -/

namespace Sys2Proof.Machine

/-- F.C, bit 2 (10_state.md R37). -/
def flagC (f : Byte) : Bool := f.getLsbD 2

/-- F.Z, bit 1 (10_state.md R38). -/
def flagZ (f : Byte) : Bool := f.getLsbD 1

/-- F.GIE, bit 0 (10_state.md R39). -/
def flagGIE (f : Byte) : Bool := f.getLsbD 0

/-- F.XIO, bit 4 (10_state.md R40). -/
def flagXIO (f : Byte) : Bool := f.getLsbD 4

/-- F.PMODE, bit 7 (10_state.md R41). -/
def flagPMODE (f : Byte) : Bool := f.getLsbD 7

/-- The mask of the undefined bits 6, 5 and 3 of F (10_state.md R42). -/
def undefinedBits : Byte := 0x68#8

/-- `F.C <- c`, every other bit kept. -/
def setFlagC (f : Byte) (c : Bool) : Byte := (f &&& 0xFB#8) ||| (if c then 0x04#8 else 0x00#8)

/-- `setZ(v)`: `F.Z <- 1 if v == 0 else 0`, every other bit kept (00_scope.md R9). -/
def setFlagZ (f : Byte) (v : Byte) : Byte := (f &&& 0xFD#8) ||| (if v = 0x00#8 then 0x02#8 else 0x00#8)

/-- `F.C <- c; setZ(v)`: the two bits an arithmetic or shift instruction writes (40_arithmetic.md R200,
42_shift_rotate.md R310). -/
def setFlagsCZ (f : Byte) (c : Bool) (v : Byte) : Byte := setFlagZ (setFlagC f c) v

/-- F.C as a number, the carry that `ADC` and `SBB` consume. -/
def carryIn (f : Byte) : Nat := if flagC f then 1 else 0

/-- The result and flags of an exact sum: the stored byte is `r mod 256`, C is `r > 255`, Z the zero test of the stored
byte (40_arithmetic.md R200). -/
def Alu.ofSum (f : Byte) (r : Nat) : Byte × Byte :=
  (BitVec.ofNat 8 r, setFlagsCZ f (decide (255 < r)) (BitVec.ofNat 8 r))

/-- The result and flags of an exact difference: the stored byte is `r mod 256`, C is `r < 0`, Z the zero test of the
stored byte (40_arithmetic.md R200). -/
def Alu.ofDifference (f : Byte) (r : Int) : Byte × Byte :=
  (BitVec.ofInt 8 r, setFlagsCZ f (decide (r < 0)) (BitVec.ofInt 8 r))

/-- The result and flags of a logical operation: Z only (41_logical.md R260). -/
def Alu.ofLogic (f r : Byte) : Byte × Byte := (r, setFlagZ f r)

/-- `ADD`: `r <- a + b` (40_arithmetic.md R245). -/
def Alu.add (f a b : Byte) : Byte × Byte := Alu.ofSum f (a.toNat + b.toNat)

/-- `ADC`: `r <- a + b + F.C` (40_arithmetic.md R244). -/
def Alu.adc (f a b : Byte) : Byte × Byte := Alu.ofSum f (a.toNat + b.toNat + carryIn f)

/-- `SUB`: `r <- a - b` (40_arithmetic.md R250). -/
def Alu.sub (f a b : Byte) : Byte × Byte := Alu.ofDifference f ((a.toNat : Int) - b.toNat)

/-- `SBB`: `r <- a - (b + F.C)` (40_arithmetic.md R249). -/
def Alu.sbb (f a b : Byte) : Byte × Byte := Alu.ofDifference f ((a.toNat : Int) - (b.toNat + carryIn f))

/-- `CMP`: the flags of `a - b`, nothing stored (40_arithmetic.md R246). -/
def Alu.cmp (f a b : Byte) : Byte := (Alu.ofDifference f ((a.toNat : Int) - b.toNat)).2

/-- `AND`: `r <- a & b` (41_logical.md R298). -/
def Alu.and (f a b : Byte) : Byte × Byte := Alu.ofLogic f (a &&& b)

/-- `OR`: `r <- a | b` (41_logical.md R299). -/
def Alu.or (f a b : Byte) : Byte × Byte := Alu.ofLogic f (a ||| b)

/-- `XOR`: `r <- a ^ b` (41_logical.md R301). -/
def Alu.xor (f a b : Byte) : Byte × Byte := Alu.ofLogic f (a ^^^ b)

/-- `TST`: the Z of `a & b`, nothing stored (41_logical.md R300). -/
def Alu.tst (f a b : Byte) : Byte := setFlagZ f (a &&& b)

/-- `CPL`: `r <- ~a`, Z only (41_logical.md R273). -/
def Alu.cpl (f a : Byte) : Byte × Byte := Alu.ofLogic f (~~~a)

/-- `INC`: `r <- (a + 1) mod 256`; C and Z are both `r == 0` (40_arithmetic.md R248). -/
def Alu.inc (f a : Byte) : Byte × Byte := (a + 1, setFlagsCZ f (decide (a + 1 = 0)) (a + 1))

/-- `DEC`: `r <- (a - 1) mod 256`; C is `a == 0`, Z is `r == 0` (40_arithmetic.md R247). -/
def Alu.dec (f a : Byte) : Byte × Byte := (a - 1, setFlagsCZ f (decide (a = 0)) (a - 1))

/-- `ASL`: bit 7 into C, 0 into bit 0 (42_shift_rotate.md R323). -/
def Alu.asl (f a : Byte) : Byte × Byte :=
  let r : Byte := a.extractLsb' 0 7 ++ 0#1
  (r, setFlagsCZ f (a.getLsbD 7) r)

/-- `ASR`: bit 0 into C, bit 7 kept: `r <- {a[7], a[7:1]}` (42_shift_rotate.md R324). -/
def Alu.asr (f a : Byte) : Byte × Byte :=
  let r : Byte := a.extractLsb' 7 1 ++ a.extractLsb' 1 7
  (r, setFlagsCZ f (a.getLsbD 0) r)

/-- `RLC`: `r <- {a[6:0], c}`, bit 7 into C, where c is the old F.C (42_shift_rotate.md R325). -/
def Alu.rlc (f a : Byte) : Byte × Byte :=
  let r : Byte := a.extractLsb' 0 7 ++ f.extractLsb' 2 1
  (r, setFlagsCZ f (a.getLsbD 7) r)

/-- `RRC`: `r <- {c, a[7:1]}`, bit 0 into C, where c is the old F.C (42_shift_rotate.md R326). -/
def Alu.rrc (f a : Byte) : Byte × Byte :=
  let r : Byte := f.extractLsb' 2 1 ++ a.extractLsb' 1 7
  (r, setFlagsCZ f (a.getLsbD 0) r)

end Sys2Proof.Machine
end

