-- ==== Sys2Proof/Machine/Memory.lean ====
section
/-! DEFINITION. Memory as a list of (address, byte) pairs in one canonical form: addresses strictly rising, and no entry equal to what an unlisted address reads as. That background is `some d` (the register space: 0x00) or `none` (RAM and ROM: no byte of the list's own). -/

namespace Sys2Proof.Machine

/-- The byte listed at an address, if there is one. -/
def Memory.read? : List Host.Cell → Nat → Option Byte
  | [], _ => none
  | (b, v) :: m, a => if a = b then some v else Memory.read? m a

/-- The byte at an address, `d` where nothing is listed. -/
def Memory.readD (d : Byte) (m : List Host.Cell) (a : Nat) : Byte :=
  match Memory.read? m a with
  | some v => v
  | none => d

/-- The list without its entry at an address. -/
def Memory.erase : List Host.Cell → Nat → List Host.Cell
  | [], _ => []
  | (b, v) :: m, a => if a = b then Memory.erase m a else (b, v) :: Memory.erase m a

/-- The list with one entry more, before the first greater address. -/
def Memory.insert : List Host.Cell → Nat → Byte → List Host.Cell
  | [], a, v => [(a, v)]
  | (b, w) :: m, a, v => if a < b then (a, v) :: (b, w) :: m else (b, w) :: Memory.insert m a v

/-- Write one byte, keeping the canonical form: writing what an unlisted address reads as removes the entry. -/
def Memory.put (d : Option Byte) (m : List Host.Cell) (a : Nat) (v : Byte) : List Host.Cell :=
  if d = some v then Memory.erase m a else Memory.insert (Memory.erase m a) a v

/-- Write several bytes, the first of the list first. -/
def Memory.putAll (d : Option Byte) (m : List Host.Cell) : List Host.Cell → List Host.Cell
  | [] => m
  | (a, v) :: ws => Memory.putAll d (Memory.put d m a v) ws

/-- Bytes at ascending addresses. -/
def Memory.cellsFrom (addr : Nat) : List Byte → List Host.Cell
  | [] => []
  | b :: bs => (addr, b) :: Memory.cellsFrom (addr + 1) bs

/-- Addresses strictly rising, each above `lo`. -/
def Memory.risingFrom (lo : Nat) : List Host.Cell → Bool
  | [] => true
  | (a, _) :: m => decide (lo < a) && Memory.risingFrom a m

/-- Addresses strictly rising. -/
def Memory.rising : List Host.Cell → Bool
  | [] => true
  | (a, _) :: m => Memory.risingFrom a m

/-- The canonical form: addresses strictly rising, no entry equal to the background. -/
def Memory.wf (d : Option Byte) (m : List Host.Cell) : Bool :=
  Memory.rising m && m.all fun c => decide (d ≠ some c.2)

end Sys2Proof.Machine
end

