-- ==== Sys2Proof/Config.lean ====
section
/-! DEFINITION. What an implementation fixes (the parameters of 00_scope.md R4, held as plain data in a `Profile`) and the free values: opaque constants, so that nothing proved can rest on one of them. -/

namespace Sys2Proof

/-- How the current RAM page follows from `CPP_DR` on a device with more than one page (20_memory.md R89, R90;
notes/assumptions/23.md). -/
inductive PageRule where
  /-- The page is the value of `CPP_DR`, as its name "Current Page Pointer" says. -/
  | pointer
  /-- The page is a function of `CPP_DR` and `F.PMODE` that the source does not give: `Config.curPage`. -/
  | device
  deriving DecidableEq, Repr

/-- The parameters that ALUG leaves to the device (00_scope.md R4). No step changes them. -/
structure Profile where
  /-- `RAM_PAGES`: 256-byte RAM pages implemented. -/
  ramPages : Nat
  /-- `RAM_SIZE`: bytes of RAM implemented; may be less than 256 in a one-page device. -/
  ramSize : Nat
  /-- `STACK_PAGE`, meaningful when there is more than one page (20_memory.md R88). -/
  stackPage : Nat
  /-- `FLASH_SIZE`: bytes of program store. -/
  flashSize : Nat
  /-- `F_READABLE`: whether register address 0xF7 reads F; false for CY8C25xxx and CY8C26xxx. -/
  fReadable : Bool
  /-- `CPP_DR_ADDR`: bank * 256 + address of the Current Page Pointer register. -/
  cppDr : Nat
  /-- `DPR_DR_ADDR`: bank * 256 + address of the Data Page Read register. -/
  dprDr : Nat
  /-- `DPW_DR_ADDR`: bank * 256 + address of the Data Page Write register. -/
  dpwDr : Nat
  /-- How the current page follows from `CPP_DR` and `F.PMODE` (20_memory.md R89). -/
  pageRule : PageRule
  /-- Register locations (bank * 256 + address) whose reads the platform's `RegDevice` answers (20_memory.md R91);
  every other location is a plain read/write byte. -/
  devices : List Nat
  /-- The register space's "power-on state" (10_state.md R50): locations not listed hold 0x00. -/
  regPowerOn : List Host.Cell
  /-- `VECTOR(n)` for the requests listed (60_exceptions.md R445); the others are `Config.vector`. -/
  vectors : List (Nat × Word)
  /-- Whether a `SromCall` is supplied (45_system.md R426). -/
  srom : Bool
  deriving DecidableEq, Repr

/-- The base profile (00_scope.md R5, 92_eei_decisions.md D12, D20): one page of 256 bytes, stack page 0, 16384 bytes
of Flash, F readable at 0xF7, plain register space, no `SromCall`. The page-pointer addresses have no effect with one
page. DESIGN CHOICE (the spec's own), notes/assumptions/2.md. -/
def Profile.base : Profile where
  ramPages := 1
  ramSize := 256
  stackPage := 0
  flashSize := 16384
  fReadable := true
  cppDr := 0
  dprDr := 0
  dpwDr := 0
  pageRule := .pointer
  devices := []
  regPowerOn := []
  vectors := []
  srom := false

/-- What a supplied supervisory routine did by the time its closing `RETI` runs (45_system.md R426): the values it
left in A and X, the RAM, register-space and Flash bytes it wrote, in order, and the undefined bits of F it set. -/
structure SromEffect where
  /-- A on return. -/
  a : Byte
  /-- X on return. -/
  x : Byte
  /-- RAM writes: (page * 256 + address, byte). -/
  ram : List Host.Cell
  /-- Register-space writes: (bank * 256 + address, byte). -/
  regs : List Host.Cell
  /-- Flash writes: (address, byte); 70_reset_and_hazards.md R501 names routines that program Flash. -/
  rom : List Host.Cell
  /-- Which of the undefined bits 6, 5, 3 of F it set to 1 while it ran (10_state.md R42). -/
  spare : Byte
  deriving DecidableEq, Repr, Inhabited

/-- FREE VALUE: what a RAM byte that nothing has written since the reset number `epoch` reads as, by key
page * 256 + address (10_state.md R50, 92_eei_decisions.md D15; notes/assumptions/1.md). -/
opaque Config.ramPowerOn (epoch key : Nat) : Byte

/-- FREE VALUE: the n-th arbitrary byte: what a device-owned register location answers (20_memory.md R91) and what the
undefined bits of F read as once set (10_state.md R42); notes/assumptions/6.md, 22.md. -/
opaque Config.freeByte (n : Nat) : Byte

/-- FREE VALUE: `CurPage` of a multi-page device from `CPP_DR` and `F.PMODE` (20_memory.md R89;
notes/assumptions/23.md). -/
opaque Config.curPage (cpp : Byte) (pmode : Bool) : Nat

/-- FREE VALUE: `VECTOR(n)` of a request that the profile does not list (60_exceptions.md R445;
notes/assumptions/5.md). -/
opaque Config.vector (n : Nat) : Word

end Sys2Proof
end

