-- ==== Sys2Proof/Machine/State.lean ====
section
/-! DEFINITION. The machine's state as plain data, the reasons a step can stop, the state right after reset. -/

namespace Sys2Proof.Machine

/-- The two kinds of register-space access (20_memory.md R91). -/
inductive AccessKind where
  /-- One byte read. -/
  | read
  /-- One byte write. -/
  | write
  deriving DecidableEq, Repr

/-- One access that reached the platform's register space: its kind, its location (bank * 256 + address) and the byte
moved (20_memory.md R91). -/
structure RegAccess where
  kind : AccessKind
  loc : Nat
  value : Byte
  deriving DecidableEq, Repr

/-- The state of the machine (10_state.md R30 to R49, 00_scope.md R12). RAM keys are page * 256 + address, register
keys bank * 256 + address. -/
structure State where
  /-- A, accumulator (10_state.md R31). -/
  a : Byte
  /-- X, index register (10_state.md R32). -/
  x : Byte
  /-- SP, stack pointer: the address of the next free stack byte (10_state.md R33). -/
  sp : Byte
  /-- F, flags: PMODE bit 7, XIO bit 4, C bit 2, Z bit 1, GIE bit 0 (10_state.md R36). -/
  f : Byte
  /-- PC, program counter (10_state.md R34). -/
  pc : Word
  /-- The core is halted (10_state.md R49). -/
  halted : Bool
  /-- The RAM bytes written since reset (10_state.md R46); an unlisted byte reads `Config.ramPowerOn`. -/
  ram : List Host.Cell
  /-- The register space's stored bytes (10_state.md R47); an unlisted location holds 0x00. -/
  regs : List Host.Cell
  /-- The assigned ROM bytes (10_state.md R45, 70_reset_and_hazards.md R496). -/
  rom : List Host.Cell
  /-- The watchdog timer is enabled (10_state.md R49). -/
  wdt : Bool
  /-- What the interrupt controller reports at the coming instruction boundaries, the next one first; none once the
  list is used up (60_exceptions.md R443). -/
  irqs : List (Option Nat)
  /-- The register-space accesses made, newest first (20_memory.md R91, 70_reset_and_hazards.md R498). -/
  bus : List RegAccess
  /-- Which of the undefined bits 6, 5, 3 of F have been written 1 since reset (10_state.md R42). -/
  spare : Byte
  /-- MODEL: how many hardware resets there have been; it selects the free contents of RAM. -/
  epoch : Nat
  /-- MODEL: how many free values have been drawn. -/
  fresh : Nat
  /-- The device's parameters (00_scope.md R4). -/
  profile : Profile
  deriving DecidableEq, Repr

/-- Why a step stops with a fault. -/
inductive Fault where
  /-- Stuck: a step of a halted core; "a run has ended" (45_system.md R421, 93_implementation_defined.md U17). Raised by
  `step` alone. Safe: the hardware stays halted too. -/
  | halted
  deriving DecidableEq, Repr

/-- Why a step is refused: the cases for which the spec asks a model to return "no defined behaviour" rather than a state
(60_exceptions.md R441). -/
inductive Refusal where
  /-- An instruction without a meaning; no arm of `exec` answers it. Safe. -/
  | notModelled (mnemonic : String)
  /-- A RAM access to an unimplemented byte or page (20_memory.md R96, D16). Raised by every RAM access. Safe. -/
  | ramUnimplemented (page : Nat) (addr : Byte)
  /-- A fetch, `INDEX` or `ROMX` read at or beyond `FLASH_SIZE` or at an unassigned address (20_memory.md R95, D16).
  Raised by `romRd`. Safe. -/
  | romUnreadable (addr : Word)
  /-- `SSC` when no `SromCall` is supplied (45_system.md R426, D3). Raised by `sromCall`. Safe. -/
  | noSromCall
  /-- The fetched bytes decode to no instruction; never raised, since the decoder is total (30_encoding.md R138). Safe. -/
  | undecodable
  deriving DecidableEq, Repr

/-- FREE VALUE: what a supplied supervisory routine does when it is started in a state, `SromCall : state -> state`
(45_system.md R426; notes/assumptions/9.md). -/
opaque sromEffect (s : State) : SromEffect

/-- The state right after reset (10_state.md R50, 70_reset_and_hazards.md R491) in the base profile (00_scope.md R5),
with no program loaded: A, X, SP and PC 0, F 0x02, not halted, no RAM byte written, the watchdog disabled. -/
def State.reset : State where
  a := 0x00#8
  x := 0x00#8
  sp := 0x00#8
  f := 0x02#8
  pc := 0x0000#16
  halted := false
  ram := []
  regs := []
  rom := []
  wdt := false
  irqs := []
  bus := []
  spare := 0x00#8
  epoch := 0
  fresh := 0
  profile := Profile.base

end Sys2Proof.Machine
end

