-- ==== Sys2Proof/Machine/Ops.lean ====
section
/-! DEFINITION. The named operations over registers, RAM, register space and ROM (00_scope.md R9), the stack, taking an interrupt or a supervisor call and returning from one, and fetching an instruction. -/

namespace Sys2Proof.Machine

/-- The outcome of a step or of a meaning. -/
abbrev Result := Host.Outcome State Fault Refusal

/-- A state, or the reason there is none, as an outcome. -/
def ofExcept : Except Refusal State → Result
  | .ok s => .next s
  | .error r => .refused r

/-! Updates of one register. -/

/-- `A <- v`. -/
def State.setA (s : State) (v : Byte) : State := { s with a := v }

/-- `X <- v`. -/
def State.setX (s : State) (v : Byte) : State := { s with x := v }

/-- `SP <- v`. -/
def State.setSp (s : State) (v : Byte) : State := { s with sp := v }

/-- `PC <- v`. -/
def State.setPc (s : State) (v : Word) : State := { s with pc := v }

/-- `next` for an instruction of `n` bytes: `PC <- (pc0 + n) mod 65536` (10_state.md R35). -/
def State.advance (s : State) (n : Word) : State := { s with pc := s.pc + n }

/-- C and Z of F written: `v` differs from the old F in those bits only, so the undefined bits are not written. -/
def State.setFlags (s : State) (v : Byte) : State := { s with f := v }

/-- The whole of F written (`AND F`, `OR F`, `XOR F`, `RETI`, `SSC`, interrupt entry): all eight bits are stored, and the
undefined bits that are now 1 are remembered (10_state.md R42). -/
def State.writeF (s : State) (v : Byte) : State :=
  { s with f := v, spare := s.spare ||| (v &&& undefinedBits) }

/-- `halted <- true`. -/
def State.setHalted (s : State) : State := { s with halted := true }

/-- The request reported at this instruction boundary is used up (60_exceptions.md R443). -/
def State.pollIrq (s : State) : State := { s with irqs := s.irqs.tail }

/-- One free value drawn. -/
def State.draw (s : State) : State := { s with fresh := s.fresh + 1 }

/-- One register-space access recorded. -/
def State.logAccess (s : State) (e : RegAccess) : State := { s with bus := e :: s.bus }

/-! RAM (20_memory.md R85 to R90, R96). -/

/-- The RAM byte at address `addr` of page `page` is implemented (20_memory.md R96). DESIGN CHOICE: of `RAM_SIZE` the spec
gives only the count (00_scope.md R4, 93_implementation_defined.md U5); the implemented bytes are taken to be the lowest
ones, page 0 address 0 first, without a gap (notes/assumptions/41.md). -/
def ramOk (p : Profile) (page : Nat) (addr : Byte) : Bool :=
  decide (page < p.ramPages) && decide (page * 256 + addr.toNat < p.ramSize)

/-- What the RAM byte at a key page * 256 + address holds: the byte written last, or, if none was since reset, a free
value (10_state.md R50, D15). -/
def ramByte (s : State) (key : Nat) : Byte := Memory.readD (Config.ramPowerOn s.epoch key) s.ram key

/-- `MemRead(RAM:page:addr, 1)`. -/
def readRam (s : State) (page : Nat) (addr : Byte) : Except Refusal Byte :=
  if ramOk s.profile page addr then .ok (ramByte s (page * 256 + addr.toNat))
  else .error (.ramUnimplemented page addr)

/-- `MemWrite(RAM:page:addr, 1, v)`. -/
def writeRam (s : State) (page : Nat) (addr v : Byte) : Except Refusal State :=
  if ramOk s.profile page addr then .ok { s with ram := Memory.put none s.ram (page * 256 + addr.toNat) v }
  else .error (.ramUnimplemented page addr)

/-- The byte that a register location (bank * 256 + address) stores; 0x00 where nothing is listed. -/
def regByte (s : State) (loc : Nat) : Byte := Memory.readD 0x00#8 s.regs loc

/-- `CurPage`: 0 with one page; otherwise from `CPP_DR` and `F.PMODE` as the profile says (20_memory.md R89). -/
def curPage (s : State) : Nat :=
  if s.profile.ramPages ≤ 1 then 0
  else match s.profile.pageRule with
    | .pointer => (regByte s s.profile.cppDr).toNat
    | .device => Config.curPage (regByte s s.profile.cppDr) (flagPMODE s.f)

/-- The stack's page: 0 with one page; otherwise `STACK_PAGE` (20_memory.md R88). -/
def stackPage (s : State) : Nat := if s.profile.ramPages ≤ 1 then 0 else s.profile.stackPage

/-- `MviRdPage`: 0 with one page; otherwise the value of `DPR_DR` (20_memory.md R90). -/
def mviReadPage (s : State) : Nat :=
  if s.profile.ramPages ≤ 1 then 0 else (regByte s s.profile.dprDr).toNat

/-- `MviWrPage`: 0 with one page; otherwise the value of `DPW_DR` (20_memory.md R90). -/
def mviWritePage (s : State) : Nat :=
  if s.profile.ramPages ≤ 1 then 0 else (regByte s s.profile.dpwDr).toNat

/-- `RamRd(a)`: a read in the current page (20_memory.md R89). -/
def ramRd (s : State) (addr : Byte) : Except Refusal Byte := readRam s (curPage s) addr

/-- `RamWr(a, v)`: a write in the current page (20_memory.md R89). -/
def ramWr (s : State) (addr v : Byte) : Except Refusal State := writeRam s (curPage s) addr v

/-! The stack (20_memory.md R82, R88; 10_state.md R33). -/

/-- `push(v)`: `StkWr(SP, v); SP <- (SP + 1) mod 256`. -/
def push (s : State) (v : Byte) : Except Refusal State :=
  match writeRam s (stackPage s) s.sp v with
  | .error r => .error r
  | .ok t => .ok (t.setSp (s.sp + 1))

/-- `pop()`: `SP <- (SP - 1) mod 256; return StkRd(SP)`. -/
def pop (s : State) : Except Refusal (Byte × State) :=
  match readRam s (stackPage s) (s.sp - 1) with
  | .error r => .error r
  | .ok v => .ok (v, s.setSp (s.sp - 1))

/-- A 16-bit return address pushed, upper byte first (20_memory.md R82). -/
def pushWord (s : State) (w : Word) : Except Refusal State :=
  match push s (w.extractLsb' 8 8) with
  | .error r => .error r
  | .ok t => push t (w.extractLsb' 0 8)

/-- A 16-bit return address popped, lower byte first (20_memory.md R82). -/
def popWord (s : State) : Except Refusal (Word × State) :=
  match pop s with
  | .error r => .error r
  | .ok (lo, t) =>
    match pop t with
    | .error r => .error r
    | .ok (hi, u) => .ok (hi ++ lo, u)

/-! F as it is observed (10_state.md R42). -/

/-- F read where its value becomes observable: by `reg[0xF7]`, by `SSC` and by interrupt entry. The undefined bits that
have been 1 since reset read as a free value; the other bits as they are stored (10_state.md R42, U1). -/
def observeF (s : State) : Byte × State :=
  if (s.spare ||| s.f) &&& undefinedBits = 0x00#8 then (s.f, s)
  else
    let m := (s.spare ||| s.f) &&& undefinedBits
    ((s.f &&& ~~~m) ||| (Config.freeByte s.fresh &&& m), s.draw)

/-! Register space (20_memory.md R91, R92). -/

/-- The location of a register-space access: bank F.XIO, address `ea` (20_memory.md R91). DESIGN CHOICE: every address,
that of `CPU_SCR` among them, has a byte of its own in each bank, so a write through one bank is not read back through
the other (R97, D13, D20; notes/assumptions/42.md). -/
def regLoc (f ea : Byte) : Nat := (if flagXIO f then 256 else 0) + ea.toNat

/-- The address at which F can be read (00_scope.md R4). -/
def fAddr : Byte := 0xF7#8

/-- The address of `CPU_SCR`, in either bank (00_scope.md R4, 20_memory.md R97, D13; notes/assumptions/16.md, 42.md). -/
def cpuScrAddr : Byte := 0xFF#8

/-- The access is to the mirror of F: address 0xF7, in either bank, on a device with a readable F (20_memory.md R92). -/
def isFMirror (p : Profile) (ea : Byte) : Bool := p.fReadable && decide (ea = fAddr)

/-- `RegRd(a)`: F at the mirror; a free value at a location the device owns; the stored byte elsewhere. Reads other than
the mirror's reach the platform and are recorded (20_memory.md R91, R92); DESIGN CHOICE: a read of the mirror does not
(notes/assumptions/15.md). -/
def regRd (s : State) (ea : Byte) : Byte × State :=
  if isFMirror s.profile ea then observeF s
  else if s.profile.devices.contains (regLoc s.f ea) then
    (Config.freeByte s.fresh, s.draw.logAccess ⟨.read, regLoc s.f ea, Config.freeByte s.fresh⟩)
  else
    (regByte s (regLoc s.f ea), s.logAccess ⟨.read, regLoc s.f ea, regByte s (regLoc s.f ea)⟩)

/-- `RegWr(a, v)`: the write reaches the platform and is recorded; the location stores it, but for the mirror of F, where
it is discarded and F does not change (10_state.md R43, 20_memory.md R91, R92, D11). -/
def regWr (s : State) (ea v : Byte) : State :=
  if isFMirror s.profile ea then s.logAccess ⟨.write, regLoc s.f ea, v⟩
  else { s.logAccess ⟨.write, regLoc s.f ea, v⟩ with
    regs := Memory.put (some 0x00#8) s.regs (regLoc s.f ea) v }

/-! ROM (20_memory.md R93, R95). -/

/-- `RomRd(a)`: the assigned byte below `FLASH_SIZE`; any other address is refused (20_memory.md R95, D16). -/
def romRd (s : State) (addr : Word) : Except Refusal Byte :=
  if addr.toNat < s.profile.flashSize then
    match Memory.read? s.rom addr.toNat with
    | some v => .ok v
    | none => .error (.romUnreadable addr)
  else .error (.romUnreadable addr)

/-- `n` ROM bytes at ascending addresses from `addr` (20_memory.md R81). -/
def fetchFrom (s : State) (addr : Word) : Nat → Except Refusal (List Byte)
  | 0 => .ok []
  | n + 1 =>
    match romRd s addr with
    | .error r => .error r
    | .ok b =>
      match fetchFrom s (addr + 1) n with
      | .error r => .error r
      | .ok bs => .ok (b :: bs)

/-- The bytes of the instruction at PC: byte 0, then as many more as its length asks for (30_encoding.md R133). -/
def fetchBytes (s : State) : Except Refusal (List Byte) :=
  match romRd s s.pc with
  | .error r => .error r
  | .ok b0 => fetchFrom s s.pc (opcodeLength b0)

/-- The instruction at PC. -/
def fetchInstr (s : State) : Except Refusal Instr :=
  match fetchBytes s with
  | .error r => .error r
  | .ok bs =>
    match decode bs with
    | .instr i _ => .ok i
    | .truncated => .error .undecodable
    | .unassigned => .error .undecodable

/-- `s` with the three bytes of an instruction's bits `w` (bits from `nbits` on being 0) at the ROM addresses `step`
fetches next. -/
def placeWord (s : State) (nbits w : Nat) : State :=
  let v := w % 2 ^ nbits
  let cells : List Host.Cell :=
    [(s.pc.toNat, BitVec.ofNat 8 v), ((s.pc + 1).toNat, BitVec.ofNat 8 (v / 256)),
      ((s.pc + 2).toNat, BitVec.ofNat 8 (v / 65536))]
  { s with rom := Memory.putAll none s.rom cells }

/-! Taking an interrupt or a supervisor call, and returning from one. -/

/-- The common frame and entry of interrupts and `SSC` (60_exceptions.md R444, R446; 45_system.md R425):
`push(ret[15:8]); push(ret[7:0]); push(F); F <- 0x00; PC <- target`. -/
def enterHandler (s : State) (ret target : Word) : Except Refusal State :=
  match pushWord s ret with
  | .error r => .error r
  | .ok t =>
    match push (observeF t).2 (observeF t).1 with
    | .error r => .error r
    | .ok u => .ok ((u.writeF 0x00#8).setPc target)

/-- The vector listed for request n, or the free one (60_exceptions.md R445). -/
def vectorOf (p : Profile) (n : Nat) : Word :=
  match p.vectors.find? (fun c => c.1 == n) with
  | some c => c.2
  | none => Config.vector n

/-- The request taken at this boundary: the one the controller reports, when F.GIE is 1 (60_exceptions.md R443). -/
def takenIrq (s : State) : Option Nat :=
  if flagGIE s.f then
    match s.irqs with
    | some n :: _ => some n
    | none :: _ => none
    | [] => none
  else none

/-- Interrupt entry for request n, at a boundary: the pushed PC is the address of the next instruction
(60_exceptions.md R444). -/
def enterInterrupt (s : State) (n : Nat) : Except Refusal State :=
  enterHandler s s.pc (vectorOf s.profile n)

/-- `RETI`: `f <- pop(); lo <- pop(); hi <- pop(); F <- f; PC <- {hi, lo}` (45_system.md R423). -/
def returnFromInterrupt (s : State) : Except Refusal State :=
  match pop s with
  | .error r => .error r
  | .ok (f, t) =>
    match popWord t with
    | .error r => .error r
    | .ok (pc, u) => .ok ((u.writeF f).setPc pc)

/-- The RAM bytes a supervisory routine writes, those that are implemented (45_system.md R426). -/
def sromRamWrites (p : Profile) (ws : List Host.Cell) : List Host.Cell :=
  ws.filter fun c => ramOk p (c.1 / 256) (BitVec.ofNat 8 c.1)

/-- The register-space writes of a supervisory routine, those inside the two banks of 256. -/
def sromRegWrites (ws : List Host.Cell) : List Host.Cell := ws.filter fun c => decide (c.1 < 512)

/-- The Flash bytes a supervisory routine programs (70_reset_and_hazards.md R501), those inside the Flash. -/
def sromRomWrites (p : Profile) (ws : List Host.Cell) : List Host.Cell :=
  ws.filter fun c => decide (c.1 < p.flashSize) && decide (c.1 < 65536)

/-- What the supervisory routine did before its closing `RETI`: A, X, the RAM, register-space and Flash bytes and the
undefined bits of F that have been 1 are what the free effect says (45_system.md R426, 10_state.md R42; what it leaves
alone: notes/assumptions/9.md). DESIGN CHOICE: of its register-space accesses the writes alone are recorded, not the reads
(notes/assumptions/40.md). -/
def applySrom (s : State) (e : SromEffect) : State :=
  { s with
    a := e.a, x := e.x, fresh := s.fresh + 1, spare := s.spare ||| (e.spare &&& undefinedBits),
    ram := Memory.putAll none s.ram (sromRamWrites s.profile e.ram),
    regs := Memory.putAll (some 0x00#8) s.regs (sromRegWrites e.regs),
    bus := ((sromRegWrites e.regs).map fun c => RegAccess.mk .write c.1 c.2).reverse ++ s.bus,
    rom := Memory.putAll none s.rom (sromRomWrites s.profile e.rom) }

/-- `SromCall`, from the state after `SSC`'s frame to the completion of the routine's closing `RETI`; refused when the
profile supplies none (45_system.md R426, D3). -/
def sromCall (s : State) : Except Refusal State :=
  if s.profile.srom then returnFromInterrupt (applySrom s (sromEffect s)) else .error .noSromCall

end Sys2Proof.Machine
end

