-- ==== Sys2Proof/Machine/Operands.lean ====
section
/-! DEFINITION. The operand forms (30_encoding.md R140 to R150; 20_memory.md R85 to R87, R94), once for every instruction that has them. `ea` is the effective address, `n` the instruction's length; each form reads before it writes and ends with `next` (20_memory.md R99). -/

namespace Sys2Proof.Machine

/-- A two-operand operation: F, first operand, second operand to result and new F. -/
abbrev BinOp := Byte → Byte → Byte → Byte × Byte

/-- A one-operand operation: F, operand to result and new F. -/
abbrev UnOp := Byte → Byte → Byte × Byte

/-- An operation that only sets flags: F, first operand, second operand to new F. -/
abbrev TestOp := Byte → Byte → Byte → Byte

/-- Direct addressing: `EA = k` (20_memory.md R85). -/
def eaDir (k : Byte) (_ : State) : Byte := k

/-- Indexed addressing: `EA = (X + k) mod 256` (20_memory.md R86). -/
def eaIdx (k : Byte) (s : State) : Byte := s.x + k

/-! Destination A. -/

/-- `A <- A op v`, the flags of the operation, `next`. -/
def accResult (op : BinOp) (v : Byte) (s : State) : State :=
  ((s.setA (op s.f s.a v).1).setFlags (op s.f s.a v).2).advance 2

/-- Source Immediate, destination A (30_encoding.md R141). -/
def accImm (op : BinOp) (k : Byte) (s : State) : Result := .next (accResult op k s)

/-- Source Direct or Indexed in RAM, destination A (30_encoding.md R142, R143). -/
def accRam (op : BinOp) (ea : Byte) (s : State) : Result :=
  match ramRd s ea with
  | .error r => .refused r
  | .ok v => .next (accResult op v s)

/-! Destination in RAM. -/

/-- `a <- RamRd(ea); RamWr(ea, a op v)`, the flags of the operation, `next` (30_encoding.md R144 to R147). -/
def ramBin (op : BinOp) (ea v : Byte) (n : Word) (s : State) : Result :=
  match ramRd s ea with
  | .error r => .refused r
  | .ok a =>
    match ramWr s ea (op s.f a v).1 with
    | .error r => .refused r
    | .ok t => .next ((t.setFlags (op s.f a v).2).advance n)

/-! Destination in the register space. -/

/-- `a <- RegRd(ea); RegWr(ea, a op v)`, the flags of the operation, `next` (41_logical.md R262). -/
def regBin (op : BinOp) (ea v : Byte) (n : Word) (s : State) : Result :=
  .next (((regWr (regRd s ea).2 ea (op s.f (regRd s ea).1 v).1).setFlags (op s.f (regRd s ea).1 v).2).advance n)

/-! No destination but F. -/

/-- The flags of A against an immediate (`CMP A, expr`). -/
def testAccImm (op : TestOp) (k : Byte) (s : State) : Result := .next ((s.setFlags (op s.f s.a k)).advance 2)

/-- The flags of A against a RAM byte (`CMP A, [..]`). -/
def testAccRam (op : TestOp) (ea : Byte) (s : State) : Result :=
  match ramRd s ea with
  | .error r => .refused r
  | .ok v => .next ((s.setFlags (op s.f s.a v)).advance 2)

/-- The flags of a RAM byte against an immediate (`CMP [..], expr`, `TST [..], expr`). -/
def testRam (op : TestOp) (ea v : Byte) (s : State) : Result :=
  match ramRd s ea with
  | .error r => .refused r
  | .ok a => .next ((s.setFlags (op s.f a v)).advance 3)

/-- The flags of a register-space byte against an immediate (`TST reg[..], expr`). -/
def testReg (op : TestOp) (ea v : Byte) (s : State) : Result :=
  .next (((regRd s ea).2.setFlags (op s.f (regRd s ea).1 v)).advance 3)

/-! One operand, read and then written. -/

/-- The operand is A. -/
def unA (op : UnOp) (s : State) : Result :=
  .next (((s.setA (op s.f s.a).1).setFlags (op s.f s.a).2).advance 1)

/-- The operand is X. -/
def unX (op : UnOp) (s : State) : Result :=
  .next (((s.setX (op s.f s.x).1).setFlags (op s.f s.x).2).advance 1)

/-- The operand is the RAM byte at `ea`. -/
def unRam (op : UnOp) (ea : Byte) (s : State) : Result :=
  match ramRd s ea with
  | .error r => .refused r
  | .ok a =>
    match ramWr s ea (op s.f a).1 with
    | .error r => .refused r
    | .ok t => .next ((t.setFlags (op s.f a).2).advance 2)

/-! F as destination. -/

/-- `F <- F op k; next`, all eight bits (41_logical.md R261). -/
def flagsImm (op : Byte → Byte → Byte) (k : Byte) (s : State) : Result := .next ((s.writeF (op s.f k)).advance 2)

/-! Moves. -/

/-- `A <- v; setZ(v); next`: every load of A (44_data_movement.md R360). -/
def loadA (v : Byte) (n : Word) (s : State) : State := ((s.setA v).setFlags (setFlagZ s.f v)).advance n

/-- `A <- RamRd(ea); setZ(A); next`. -/
def loadARam (ea : Byte) (s : State) : Result :=
  match ramRd s ea with
  | .error r => .refused r
  | .ok v => .next (loadA v 2 s)

/-- `A <- RegRd(ea); setZ(A); next`. -/
def loadAReg (ea : Byte) (s : State) : Result := .next (loadA (regRd s ea).1 2 (regRd s ea).2)

/-- `X <- RamRd(ea); next`. -/
def loadXRam (ea : Byte) (s : State) : Result :=
  match ramRd s ea with
  | .error r => .refused r
  | .ok v => .next ((s.setX v).advance 2)

/-- `RamWr(ea, v); next`. -/
def storeRam (ea v : Byte) (n : Word) (s : State) : Result :=
  match ramWr s ea v with
  | .error r => .refused r
  | .ok t => .next (t.advance n)

/-- `RegWr(ea, v); next`. -/
def storeReg (ea v : Byte) (n : Word) (s : State) : Result := .next ((regWr s ea v).advance n)

/-! Control transfer. -/

/-- A relative displacement as a 16-bit addend: `sext_12(k12)` modulo 65536 (30_encoding.md R134, 10_state.md R35). -/
def relDisp (k : Disp) : Word := k.signExtend 16

/-- The target of `JMP` and `Jcc`: `(pc0 + 1 + k) mod 65536` (43_control_transfer.md R330). -/
def jumpTarget (s : State) (k : Disp) : Word := s.pc + 1 + relDisp k

/-- A conditional jump: to the target, or `next` (43_control_transfer.md R330). -/
def jumpIf (c : Bool) (k : Disp) (s : State) : Result :=
  if c then .next (s.setPc (jumpTarget s k)) else .next (s.advance 2)

/-- A call: the return address pushed, upper byte first, then `PC <- target` (43_control_transfer.md R331). -/
def callTo (ret target : Word) (s : State) : Result :=
  match pushWord s ret with
  | .error r => .refused r
  | .ok t => .next (t.setPc target)

/-- `A <- RomRd(addr); setZ(A); next`. -/
def loadARom (addr : Word) (n : Word) (s : State) : Result :=
  match romRd s addr with
  | .error r => .refused r
  | .ok v => .next (loadA v n s)

end Sys2Proof.Machine
end

