-- ==== Sys2Proof/Machine/Arithmetic.lean ====
section
/-! DEFINITION. The meanings of 40_arithmetic.md, one definition per opcode row over the shared operand forms. -/

namespace Sys2Proof.Machine

/-- `ADC A, expr` (40_arithmetic.md R202). -/
def execAdcAImm (k : Byte) (s : State) : Result := accImm Alu.adc k s

/-- `ADC A, [expr]` (40_arithmetic.md R203). -/
def execAdcADir (k : Byte) (s : State) : Result := accRam Alu.adc (eaDir k s) s

/-- `ADC A, [X+expr]` (40_arithmetic.md R204). -/
def execAdcAIdx (k : Byte) (s : State) : Result := accRam Alu.adc (eaIdx k s) s

/-- `ADC [expr], A` (40_arithmetic.md R205). -/
def execAdcDirA (k : Byte) (s : State) : Result := ramBin Alu.adc (eaDir k s) s.a 2 s

/-- `ADC [X+expr], A` (40_arithmetic.md R206). -/
def execAdcIdxA (k : Byte) (s : State) : Result := ramBin Alu.adc (eaIdx k s) s.a 2 s

/-- `ADC [expr], expr` (40_arithmetic.md R207). -/
def execAdcDirImm (k1 : Byte) (k2 : Byte) (s : State) : Result := ramBin Alu.adc (eaDir k1 s) k2 3 s

/-- `ADC [X+expr], expr` (40_arithmetic.md R208). -/
def execAdcIdxImm (k1 : Byte) (k2 : Byte) (s : State) : Result := ramBin Alu.adc (eaIdx k1 s) k2 3 s

/-- `ADD A, expr` (40_arithmetic.md R209). -/
def execAddAImm (k : Byte) (s : State) : Result := accImm Alu.add k s

/-- `ADD A, [expr]` (40_arithmetic.md R210). -/
def execAddADir (k : Byte) (s : State) : Result := accRam Alu.add (eaDir k s) s

/-- `ADD A, [X+expr]` (40_arithmetic.md R211). -/
def execAddAIdx (k : Byte) (s : State) : Result := accRam Alu.add (eaIdx k s) s

/-- `ADD [expr], A` (40_arithmetic.md R212). -/
def execAddDirA (k : Byte) (s : State) : Result := ramBin Alu.add (eaDir k s) s.a 2 s

/-- `ADD [X+expr], A` (40_arithmetic.md R213). -/
def execAddIdxA (k : Byte) (s : State) : Result := ramBin Alu.add (eaIdx k s) s.a 2 s

/-- `ADD [expr], expr` (40_arithmetic.md R214). -/
def execAddDirImm (k1 : Byte) (k2 : Byte) (s : State) : Result := ramBin Alu.add (eaDir k1 s) k2 3 s

/-- `ADD [X+expr], expr` (40_arithmetic.md R215). -/
def execAddIdxImm (k1 : Byte) (k2 : Byte) (s : State) : Result := ramBin Alu.add (eaIdx k1 s) k2 3 s

/-- `ADD SP, expr` (40_arithmetic.md R216): `SP <- (SP + k) mod 256`, no flags (D19). -/
def execAddSp (k : Byte) (s : State) : Result := .next ((s.setSp (s.sp + k)).advance 2)

/-- `CMP A, expr` (40_arithmetic.md R217). -/
def execCmpAImm (k : Byte) (s : State) : Result := testAccImm Alu.cmp k s

/-- `CMP A, [expr]` (40_arithmetic.md R218). -/
def execCmpADir (k : Byte) (s : State) : Result := testAccRam Alu.cmp (eaDir k s) s

/-- `CMP A, [X+expr]` (40_arithmetic.md R219). -/
def execCmpAIdx (k : Byte) (s : State) : Result := testAccRam Alu.cmp (eaIdx k s) s

/-- `CMP [expr], expr` (40_arithmetic.md R220). -/
def execCmpDirImm (k1 : Byte) (k2 : Byte) (s : State) : Result := testRam Alu.cmp (eaDir k1 s) k2 s

/-- `CMP [X+expr], expr` (40_arithmetic.md R221). -/
def execCmpIdxImm (k1 : Byte) (k2 : Byte) (s : State) : Result := testRam Alu.cmp (eaIdx k1 s) k2 s

/-- `DEC A` (40_arithmetic.md R222). -/
def execDecA (s : State) : Result := unA Alu.dec s

/-- `DEC X` (40_arithmetic.md R223). -/
def execDecX (s : State) : Result := unX Alu.dec s

/-- `DEC [expr]` (40_arithmetic.md R224). -/
def execDecDir (k : Byte) (s : State) : Result := unRam Alu.dec (eaDir k s) s

/-- `DEC [X+expr]` (40_arithmetic.md R225). -/
def execDecIdx (k : Byte) (s : State) : Result := unRam Alu.dec (eaIdx k s) s

/-- `INC A` (40_arithmetic.md R226). -/
def execIncA (s : State) : Result := unA Alu.inc s

/-- `INC X` (40_arithmetic.md R227). -/
def execIncX (s : State) : Result := unX Alu.inc s

/-- `INC [expr]` (40_arithmetic.md R228). -/
def execIncDir (k : Byte) (s : State) : Result := unRam Alu.inc (eaDir k s) s

/-- `INC [X+expr]` (40_arithmetic.md R229). -/
def execIncIdx (k : Byte) (s : State) : Result := unRam Alu.inc (eaIdx k s) s

/-- `SBB A, expr` (40_arithmetic.md R230). -/
def execSbbAImm (k : Byte) (s : State) : Result := accImm Alu.sbb k s

/-- `SBB A, [expr]` (40_arithmetic.md R231). -/
def execSbbADir (k : Byte) (s : State) : Result := accRam Alu.sbb (eaDir k s) s

/-- `SBB A, [X+expr]` (40_arithmetic.md R232). -/
def execSbbAIdx (k : Byte) (s : State) : Result := accRam Alu.sbb (eaIdx k s) s

/-- `SBB [expr], A` (40_arithmetic.md R233). -/
def execSbbDirA (k : Byte) (s : State) : Result := ramBin Alu.sbb (eaDir k s) s.a 2 s

/-- `SBB [X+expr], A` (40_arithmetic.md R234). -/
def execSbbIdxA (k : Byte) (s : State) : Result := ramBin Alu.sbb (eaIdx k s) s.a 2 s

/-- `SBB [expr], expr` (40_arithmetic.md R235). -/
def execSbbDirImm (k1 : Byte) (k2 : Byte) (s : State) : Result := ramBin Alu.sbb (eaDir k1 s) k2 3 s

/-- `SBB [X+expr], expr` (40_arithmetic.md R236). -/
def execSbbIdxImm (k1 : Byte) (k2 : Byte) (s : State) : Result := ramBin Alu.sbb (eaIdx k1 s) k2 3 s

/-- `SUB A, expr` (40_arithmetic.md R237). -/
def execSubAImm (k : Byte) (s : State) : Result := accImm Alu.sub k s

/-- `SUB A, [expr]` (40_arithmetic.md R238). -/
def execSubADir (k : Byte) (s : State) : Result := accRam Alu.sub (eaDir k s) s

/-- `SUB A, [X+expr]` (40_arithmetic.md R239). -/
def execSubAIdx (k : Byte) (s : State) : Result := accRam Alu.sub (eaIdx k s) s

/-- `SUB [expr], A` (40_arithmetic.md R240). -/
def execSubDirA (k : Byte) (s : State) : Result := ramBin Alu.sub (eaDir k s) s.a 2 s

/-- `SUB [X+expr], A` (40_arithmetic.md R241). -/
def execSubIdxA (k : Byte) (s : State) : Result := ramBin Alu.sub (eaIdx k s) s.a 2 s

/-- `SUB [expr], expr` (40_arithmetic.md R242). -/
def execSubDirImm (k1 : Byte) (k2 : Byte) (s : State) : Result := ramBin Alu.sub (eaDir k1 s) k2 3 s

/-- `SUB [X+expr], expr` (40_arithmetic.md R243). -/
def execSubIdxImm (k1 : Byte) (k2 : Byte) (s : State) : Result := ramBin Alu.sub (eaIdx k1 s) k2 3 s

end Sys2Proof.Machine
end

