-- ==== Sys2Proof/Machine/Control.lean ====
section
/-! DEFINITION. The meanings of 43_control_transfer.md, one definition per opcode row over the shared operand forms. -/

namespace Sys2Proof.Machine

/-- `CALL expr` (43_control_transfer.md R332): `pc0 + 2` pushed, `PC <- (pc0 + 2 + k) mod 65536`. -/
def execCall (k : Disp) (s : State) : Result := callTo (s.pc + 2) (s.pc + 2 + relDisp k) s

/-- `JACC expr` (43_control_transfer.md R333): `PC <- (pc0 + 1 + k + zext_8(A)) mod 65536` (D6, D14). -/
def execJacc (k : Disp) (s : State) : Result := .next (s.setPc (jumpTarget s k + s.a.setWidth 16))

/-- `JC expr` (43_control_transfer.md R334): the jump when F.C is 1. -/
def execJc (k : Disp) (s : State) : Result := jumpIf (flagC s.f) k s

/-- `JMP expr` (43_control_transfer.md R335): `PC <- (pc0 + 1 + k) mod 65536`. -/
def execJmp (k : Disp) (s : State) : Result := .next (s.setPc (jumpTarget s k))

/-- `JNC expr` (43_control_transfer.md R336): the jump when F.C is 0. -/
def execJnc (k : Disp) (s : State) : Result := jumpIf (!flagC s.f) k s

/-- `JNZ expr` (43_control_transfer.md R337): the jump when F.Z is 0. -/
def execJnz (k : Disp) (s : State) : Result := jumpIf (!flagZ s.f) k s

/-- `JZ expr` (43_control_transfer.md R338): the jump when F.Z is 1. -/
def execJz (k : Disp) (s : State) : Result := jumpIf (flagZ s.f) k s

/-- `LCALL expr` (43_control_transfer.md R339): `pc0 + 3` pushed (D1), `PC <- k`. -/
def execLcall (k : Word) (s : State) : Result := callTo (s.pc + 3) k s

/-- `LJMP expr` (43_control_transfer.md R340): `PC <- k`. -/
def execLjmp (k : Word) (s : State) : Result := .next (s.setPc k)

/-- `RET` (43_control_transfer.md R341): PC popped, lower byte first. -/
def execRet (s : State) : Result :=
  match popWord s with
  | .error r => .refused r
  | .ok (pc, t) => .next (t.setPc pc)

end Sys2Proof.Machine
end

