-- ==== Sys2Proof/Machine/Logical.lean ====
section
/-! DEFINITION. The meanings of 41_logical.md, one definition per opcode row over the shared operand forms. -/

namespace Sys2Proof.Machine

/-- `AND A, expr` (41_logical.md R263). -/
def execAndAImm (k : Byte) (s : State) : Result := accImm Alu.and k s

/-- `AND A, [expr]` (41_logical.md R264). -/
def execAndADir (k : Byte) (s : State) : Result := accRam Alu.and (eaDir k s) s

/-- `AND A, [X+expr]` (41_logical.md R265). -/
def execAndAIdx (k : Byte) (s : State) : Result := accRam Alu.and (eaIdx k s) s

/-- `AND [expr], A` (41_logical.md R266). -/
def execAndDirA (k : Byte) (s : State) : Result := ramBin Alu.and (eaDir k s) s.a 2 s

/-- `AND [X+expr], A` (41_logical.md R267). -/
def execAndIdxA (k : Byte) (s : State) : Result := ramBin Alu.and (eaIdx k s) s.a 2 s

/-- `AND [expr], expr` (41_logical.md R268). -/
def execAndDirImm (k1 : Byte) (k2 : Byte) (s : State) : Result := ramBin Alu.and (eaDir k1 s) k2 3 s

/-- `AND [X+expr], expr` (41_logical.md R269). -/
def execAndIdxImm (k1 : Byte) (k2 : Byte) (s : State) : Result := ramBin Alu.and (eaIdx k1 s) k2 3 s

/-- `AND reg[expr], expr` (41_logical.md R270). -/
def execAndReg (k1 : Byte) (k2 : Byte) (s : State) : Result := regBin Alu.and (eaDir k1 s) k2 3 s

/-- `AND reg[X+expr], expr` (41_logical.md R271). -/
def execAndRegIdx (k1 : Byte) (k2 : Byte) (s : State) : Result := regBin Alu.and (eaIdx k1 s) k2 3 s

/-- `AND F, expr` (41_logical.md R272). -/
def execAndF (k : Byte) (s : State) : Result := flagsImm (fun f v => f &&& v) k s

/-- `CPL A` (41_logical.md R273). -/
def execCplA (s : State) : Result := unA Alu.cpl s

/-- `OR A, expr` (41_logical.md R274). -/
def execOrAImm (k : Byte) (s : State) : Result := accImm Alu.or k s

/-- `OR A, [expr]` (41_logical.md R275). -/
def execOrADir (k : Byte) (s : State) : Result := accRam Alu.or (eaDir k s) s

/-- `OR A, [X+expr]` (41_logical.md R276). -/
def execOrAIdx (k : Byte) (s : State) : Result := accRam Alu.or (eaIdx k s) s

/-- `OR [expr], A` (41_logical.md R277). -/
def execOrDirA (k : Byte) (s : State) : Result := ramBin Alu.or (eaDir k s) s.a 2 s

/-- `OR [X+expr], A` (41_logical.md R278). -/
def execOrIdxA (k : Byte) (s : State) : Result := ramBin Alu.or (eaIdx k s) s.a 2 s

/-- `OR [expr], expr` (41_logical.md R279). -/
def execOrDirImm (k1 : Byte) (k2 : Byte) (s : State) : Result := ramBin Alu.or (eaDir k1 s) k2 3 s

/-- `OR [X+expr], expr` (41_logical.md R280). -/
def execOrIdxImm (k1 : Byte) (k2 : Byte) (s : State) : Result := ramBin Alu.or (eaIdx k1 s) k2 3 s

/-- `OR reg[expr], expr` (41_logical.md R281). -/
def execOrReg (k1 : Byte) (k2 : Byte) (s : State) : Result := regBin Alu.or (eaDir k1 s) k2 3 s

/-- `OR reg[X+expr], expr` (41_logical.md R282). -/
def execOrRegIdx (k1 : Byte) (k2 : Byte) (s : State) : Result := regBin Alu.or (eaIdx k1 s) k2 3 s

/-- `OR F, expr` (41_logical.md R283). -/
def execOrF (k : Byte) (s : State) : Result := flagsImm (fun f v => f ||| v) k s

/-- `TST [expr], expr` (41_logical.md R284). -/
def execTstDir (k1 : Byte) (k2 : Byte) (s : State) : Result := testRam Alu.tst (eaDir k1 s) k2 s

/-- `TST [X+expr], expr` (41_logical.md R285). -/
def execTstIdx (k1 : Byte) (k2 : Byte) (s : State) : Result := testRam Alu.tst (eaIdx k1 s) k2 s

/-- `TST reg[expr], expr` (41_logical.md R286). -/
def execTstReg (k1 : Byte) (k2 : Byte) (s : State) : Result := testReg Alu.tst (eaDir k1 s) k2 s

/-- `TST reg[X+expr], expr` (41_logical.md R287). -/
def execTstRegIdx (k1 : Byte) (k2 : Byte) (s : State) : Result := testReg Alu.tst (eaIdx k1 s) k2 s

/-- `XOR A, expr` (41_logical.md R288). -/
def execXorAImm (k : Byte) (s : State) : Result := accImm Alu.xor k s

/-- `XOR A, [expr]` (41_logical.md R289). -/
def execXorADir (k : Byte) (s : State) : Result := accRam Alu.xor (eaDir k s) s

/-- `XOR A, [X+expr]` (41_logical.md R290). -/
def execXorAIdx (k : Byte) (s : State) : Result := accRam Alu.xor (eaIdx k s) s

/-- `XOR [expr], A` (41_logical.md R291). -/
def execXorDirA (k : Byte) (s : State) : Result := ramBin Alu.xor (eaDir k s) s.a 2 s

/-- `XOR [X+expr], A` (41_logical.md R292). -/
def execXorIdxA (k : Byte) (s : State) : Result := ramBin Alu.xor (eaIdx k s) s.a 2 s

/-- `XOR [expr], expr` (41_logical.md R293). -/
def execXorDirImm (k1 : Byte) (k2 : Byte) (s : State) : Result := ramBin Alu.xor (eaDir k1 s) k2 3 s

/-- `XOR [X+expr], expr` (41_logical.md R294). -/
def execXorIdxImm (k1 : Byte) (k2 : Byte) (s : State) : Result := ramBin Alu.xor (eaIdx k1 s) k2 3 s

/-- `XOR reg[expr], expr` (41_logical.md R295). -/
def execXorReg (k1 : Byte) (k2 : Byte) (s : State) : Result := regBin Alu.xor (eaDir k1 s) k2 3 s

/-- `XOR reg[X+expr], expr` (41_logical.md R296). -/
def execXorRegIdx (k1 : Byte) (k2 : Byte) (s : State) : Result := regBin Alu.xor (eaIdx k1 s) k2 3 s

/-- `XOR F, expr` (41_logical.md R297). -/
def execXorF (k : Byte) (s : State) : Result := flagsImm (fun f v => f ^^^ v) k s

end Sys2Proof.Machine
end

