-- ==== Sys2Proof/Machine/Move.lean ====
section
/-! DEFINITION. The meanings of 44_data_movement.md, one definition per opcode row over the shared operand forms. -/

namespace Sys2Proof.Machine

/-- `INDEX expr` (44_data_movement.md R361): the ROM byte at `(pc0 + 2 + k + zext_8(A)) mod 65536` into A (D6, D14). -/
def execIndex (k : Disp) (s : State) : Result := loadARom (s.pc + 2 + relDisp k + s.a.setWidth 16) 2 s

/-- `MOV X, SP` (44_data_movement.md R362). -/
def execMovXSp (s : State) : Result := .next ((s.setX s.sp).advance 1)

/-- `MOV A, expr` (44_data_movement.md R363). -/
def execMovAImm (k : Byte) (s : State) : Result := .next (loadA k 2 s)

/-- `MOV A, [expr]` (44_data_movement.md R364). -/
def execMovADir (k : Byte) (s : State) : Result := loadARam (eaDir k s) s

/-- `MOV A, [X+expr]` (44_data_movement.md R365). -/
def execMovAIdx (k : Byte) (s : State) : Result := loadARam (eaIdx k s) s

/-- `MOV [expr], A` (44_data_movement.md R366). -/
def execMovDirA (k : Byte) (s : State) : Result := storeRam (eaDir k s) s.a 2 s

/-- `MOV [X+expr], A` (44_data_movement.md R367). -/
def execMovIdxA (k : Byte) (s : State) : Result := storeRam (eaIdx k s) s.a 2 s

/-- `MOV [expr], expr` (44_data_movement.md R368). -/
def execMovDirImm (k1 : Byte) (k2 : Byte) (s : State) : Result := storeRam (eaDir k1 s) k2 3 s

/-- `MOV [X+expr], expr` (44_data_movement.md R369). -/
def execMovIdxImm (k1 : Byte) (k2 : Byte) (s : State) : Result := storeRam (eaIdx k1 s) k2 3 s

/-- `MOV X, expr` (44_data_movement.md R370). -/
def execMovXImm (k : Byte) (s : State) : Result := .next ((s.setX k).advance 2)

/-- `MOV X, [expr]` (44_data_movement.md R371). -/
def execMovXDir (k : Byte) (s : State) : Result := loadXRam (eaDir k s) s

/-- `MOV X, [X+expr]` (44_data_movement.md R372). -/
def execMovXIdx (k : Byte) (s : State) : Result := loadXRam (eaIdx k s) s

/-- `MOV [expr], X` (44_data_movement.md R373). -/
def execMovDirX (k : Byte) (s : State) : Result := storeRam (eaDir k s) s.x 2 s

/-- `MOV A, X` (44_data_movement.md R374). -/
def execMovAX (s : State) : Result := .next (loadA s.x 1 s)

/-- `MOV X, A` (44_data_movement.md R375). -/
def execMovXA (s : State) : Result := .next ((s.setX s.a).advance 1)

/-- `MOV A, reg[expr]` (44_data_movement.md R376). -/
def execMovAReg (k : Byte) (s : State) : Result := loadAReg (eaDir k s) s

/-- `MOV A, reg[X+expr]` (44_data_movement.md R377). -/
def execMovARegIdx (k : Byte) (s : State) : Result := loadAReg (eaIdx k s) s

/-- `MOV [expr], [expr]` (44_data_movement.md R378): the source read, then the destination written, no flags. -/
def execMovDirDir (k1 : Byte) (k2 : Byte) (s : State) : Result :=
  match ramRd s (eaDir k2 s) with
  | .error r => .refused r
  | .ok v => storeRam (eaDir k1 s) v 3 s

/-- `MOV reg[expr], A` (44_data_movement.md R379). -/
def execMovRegA (k : Byte) (s : State) : Result := storeReg (eaDir k s) s.a 2 s

/-- `MOV reg[X+expr], A` (44_data_movement.md R380). -/
def execMovRegIdxA (k : Byte) (s : State) : Result := storeReg (eaIdx k s) s.a 2 s

/-- `MOV reg[expr], expr` (44_data_movement.md R381). -/
def execMovRegImm (k1 : Byte) (k2 : Byte) (s : State) : Result := storeReg (eaDir k1 s) k2 3 s

/-- `MOV reg[X+expr], expr` (44_data_movement.md R382). -/
def execMovRegIdxImm (k1 : Byte) (k2 : Byte) (s : State) : Result := storeReg (eaIdx k1 s) k2 3 s

/-- `MVI A, [[expr]++]` (44_data_movement.md R392): `p <- RamRd(k); v <- MviRd(p); A <- v; setZ(v); RamWr(k, (p + 1) mod 256)`, the pointer read once (R391, D8, D22). -/
def execMviRead (k : Byte) (s : State) : Result :=
  match ramRd s k with
  | .error r => .refused r
  | .ok p =>
    match readRam s (mviReadPage s) p with
    | .error r => .refused r
    | .ok v =>
      match ramWr s k (p + 1) with
      | .error r => .refused r
      | .ok t => .next (loadA v 2 t)

/-- `MVI [[expr]++], A` (44_data_movement.md R393): `p <- RamRd(k); MviWr(p, A); RamWr(k, (p + 1) mod 256)`, the pointer read once (R391, D8, D22). -/
def execMviWrite (k : Byte) (s : State) : Result :=
  match ramRd s k with
  | .error r => .refused r
  | .ok p =>
    match writeRam s (mviWritePage s) p s.a with
    | .error r => .refused r
    | .ok t =>
      match ramWr t k (p + 1) with
      | .error r => .refused r
      | .ok u => .next (u.advance 2)

/-- `POP A` (44_data_movement.md R394): A popped, Z from it. -/
def execPopA (s : State) : Result :=
  match pop s with
  | .error r => .refused r
  | .ok (v, t) => .next (loadA v 1 t)

/-- `POP X` (44_data_movement.md R395): X popped, no flags. -/
def execPopX (s : State) : Result :=
  match pop s with
  | .error r => .refused r
  | .ok (v, t) => .next ((t.setX v).advance 1)

/-- `PUSH A` (44_data_movement.md R396): A pushed, no flags. -/
def execPushA (s : State) : Result :=
  match push s s.a with
  | .error r => .refused r
  | .ok t => .next (t.advance 1)

/-- `PUSH X` (44_data_movement.md R397): X pushed, no flags. -/
def execPushX (s : State) : Result :=
  match push s s.x with
  | .error r => .refused r
  | .ok t => .next (t.advance 1)

/-- `ROMX` (44_data_movement.md R400): the ROM byte at `{A, X}` into A. -/
def execRomx (s : State) : Result := loadARom (s.a ++ s.x) 1 s

/-- `SWAP A, X` (44_data_movement.md R401): A and X exchanged, Z from the new A. -/
def execSwapAX (s : State) : Result := .next (loadA s.x 1 (s.setX s.a))

/-- `SWAP A, [expr]` (44_data_movement.md R402): A and a RAM byte exchanged, Z from the new A. -/
def execSwapADir (k : Byte) (s : State) : Result :=
  match ramRd s (eaDir k s) with
  | .error r => .refused r
  | .ok v =>
    match ramWr s (eaDir k s) s.a with
    | .error r => .refused r
    | .ok t => .next (loadA v 2 t)

/-- `SWAP X, [expr]` (44_data_movement.md R403): X and a RAM byte exchanged, no flags. -/
def execSwapXDir (k : Byte) (s : State) : Result :=
  match ramRd s (eaDir k s) with
  | .error r => .refused r
  | .ok v =>
    match ramWr s (eaDir k s) s.x with
    | .error r => .refused r
    | .ok t => .next ((t.setX v).advance 2)

/-- `SWAP A, SP` (44_data_movement.md R404): A and SP exchanged, Z from the new A. -/
def execSwapASp (s : State) : Result := .next (loadA s.sp 1 (s.setSp s.a))

end Sys2Proof.Machine
end

