-- ==== Sys2Proof/Machine/Shift.lean ====
section
/-! DEFINITION. The meanings of 42_shift_rotate.md, one definition per opcode row over the shared operand forms. -/

namespace Sys2Proof.Machine

/-- `ASL A` (42_shift_rotate.md R311). -/
def execAslA (s : State) : Result := unA Alu.asl s

/-- `ASL [expr]` (42_shift_rotate.md R312). -/
def execAslDir (k : Byte) (s : State) : Result := unRam Alu.asl (eaDir k s) s

/-- `ASL [X+expr]` (42_shift_rotate.md R313). -/
def execAslIdx (k : Byte) (s : State) : Result := unRam Alu.asl (eaIdx k s) s

/-- `ASR A` (42_shift_rotate.md R314). -/
def execAsrA (s : State) : Result := unA Alu.asr s

/-- `ASR [expr]` (42_shift_rotate.md R315). -/
def execAsrDir (k : Byte) (s : State) : Result := unRam Alu.asr (eaDir k s) s

/-- `ASR [X+expr]` (42_shift_rotate.md R316). -/
def execAsrIdx (k : Byte) (s : State) : Result := unRam Alu.asr (eaIdx k s) s

/-- `RLC A` (42_shift_rotate.md R317). -/
def execRlcA (s : State) : Result := unA Alu.rlc s

/-- `RLC [expr]` (42_shift_rotate.md R318). -/
def execRlcDir (k : Byte) (s : State) : Result := unRam Alu.rlc (eaDir k s) s

/-- `RLC [X+expr]` (42_shift_rotate.md R319). -/
def execRlcIdx (k : Byte) (s : State) : Result := unRam Alu.rlc (eaIdx k s) s

/-- `RRC A` (42_shift_rotate.md R320). -/
def execRrcA (s : State) : Result := unA Alu.rrc s

/-- `RRC [expr]` (42_shift_rotate.md R321). -/
def execRrcDir (k : Byte) (s : State) : Result := unRam Alu.rrc (eaDir k s) s

/-- `RRC [X+expr]` (42_shift_rotate.md R322). -/
def execRrcIdx (k : Byte) (s : State) : Result := unRam Alu.rrc (eaIdx k s) s

end Sys2Proof.Machine
end

