-- ==== Sys2Proof/Machine/System.lean ====
section
/-! DEFINITION. The meanings of 45_system.md, one definition per opcode row over the shared operand forms. -/

namespace Sys2Proof.Machine

/-- `HALT` (45_system.md R420): `CPU_SCR` incremented in the bank F.XIO selects, `halted` set (D13). -/
def execHalt (s : State) : Result :=
  .next ((regWr (regRd s cpuScrAddr).2 cpuScrAddr ((regRd s cpuScrAddr).1 + 1)).setHalted.advance 1)

/-- `NOP` (45_system.md R422): nothing but `next`. -/
def execNop (s : State) : Result := .next (s.advance 1)

/-- `RETI` (45_system.md R423): F, then PC, popped. -/
def execReti (s : State) : Result := ofExcept (returnFromInterrupt s)

/-- `SSC` (45_system.md R424): call a routine of the Supervisory ROM: the frame with pc0 + 1, F cleared, PC 0x0000, then the opaque `SromCall` (R425, R426, D2, D3). -/
def execSsc (s : State) : Result :=
  match enterHandler s (s.pc + 1) 0x0000#16 with
  | .error r => .refused r
  | .ok t => ofExcept (sromCall t)

end Sys2Proof.Machine
end

