-- ==== Sys2Proof/Machine/Dispatch.lean ====
section
/-! DEFINITION. The dispatch: one arm per constructor of `Instr`, in the table's order, each a direct call of its meaning. -/

namespace Sys2Proof.Machine

def exec (i : Instr) (s : State) : Host.Outcome State Fault Refusal :=
  match i with
  | .ssc => Sys2Proof.Machine.execSsc s
  | .addAImm k => Sys2Proof.Machine.execAddAImm k s
  | .addADir k => Sys2Proof.Machine.execAddADir k s
  | .addAIdx k => Sys2Proof.Machine.execAddAIdx k s
  | .addDirA k => Sys2Proof.Machine.execAddDirA k s
  | .addIdxA k => Sys2Proof.Machine.execAddIdxA k s
  | .addDirImm k1 k2 => Sys2Proof.Machine.execAddDirImm k1 k2 s
  | .addIdxImm k1 k2 => Sys2Proof.Machine.execAddIdxImm k1 k2 s
  | .pushA => Sys2Proof.Machine.execPushA s
  | .adcAImm k => Sys2Proof.Machine.execAdcAImm k s
  | .adcADir k => Sys2Proof.Machine.execAdcADir k s
  | .adcAIdx k => Sys2Proof.Machine.execAdcAIdx k s
  | .adcDirA k => Sys2Proof.Machine.execAdcDirA k s
  | .adcIdxA k => Sys2Proof.Machine.execAdcIdxA k s
  | .adcDirImm k1 k2 => Sys2Proof.Machine.execAdcDirImm k1 k2 s
  | .adcIdxImm k1 k2 => Sys2Proof.Machine.execAdcIdxImm k1 k2 s
  | .pushX => Sys2Proof.Machine.execPushX s
  | .subAImm k => Sys2Proof.Machine.execSubAImm k s
  | .subADir k => Sys2Proof.Machine.execSubADir k s
  | .subAIdx k => Sys2Proof.Machine.execSubAIdx k s
  | .subDirA k => Sys2Proof.Machine.execSubDirA k s
  | .subIdxA k => Sys2Proof.Machine.execSubIdxA k s
  | .subDirImm k1 k2 => Sys2Proof.Machine.execSubDirImm k1 k2 s
  | .subIdxImm k1 k2 => Sys2Proof.Machine.execSubIdxImm k1 k2 s
  | .popA => Sys2Proof.Machine.execPopA s
  | .sbbAImm k => Sys2Proof.Machine.execSbbAImm k s
  | .sbbADir k => Sys2Proof.Machine.execSbbADir k s
  | .sbbAIdx k => Sys2Proof.Machine.execSbbAIdx k s
  | .sbbDirA k => Sys2Proof.Machine.execSbbDirA k s
  | .sbbIdxA k => Sys2Proof.Machine.execSbbIdxA k s
  | .sbbDirImm k1 k2 => Sys2Proof.Machine.execSbbDirImm k1 k2 s
  | .sbbIdxImm k1 k2 => Sys2Proof.Machine.execSbbIdxImm k1 k2 s
  | .popX => Sys2Proof.Machine.execPopX s
  | .andAImm k => Sys2Proof.Machine.execAndAImm k s
  | .andADir k => Sys2Proof.Machine.execAndADir k s
  | .andAIdx k => Sys2Proof.Machine.execAndAIdx k s
  | .andDirA k => Sys2Proof.Machine.execAndDirA k s
  | .andIdxA k => Sys2Proof.Machine.execAndIdxA k s
  | .andDirImm k1 k2 => Sys2Proof.Machine.execAndDirImm k1 k2 s
  | .andIdxImm k1 k2 => Sys2Proof.Machine.execAndIdxImm k1 k2 s
  | .romx => Sys2Proof.Machine.execRomx s
  | .orAImm k => Sys2Proof.Machine.execOrAImm k s
  | .orADir k => Sys2Proof.Machine.execOrADir k s
  | .orAIdx k => Sys2Proof.Machine.execOrAIdx k s
  | .orDirA k => Sys2Proof.Machine.execOrDirA k s
  | .orIdxA k => Sys2Proof.Machine.execOrIdxA k s
  | .orDirImm k1 k2 => Sys2Proof.Machine.execOrDirImm k1 k2 s
  | .orIdxImm k1 k2 => Sys2Proof.Machine.execOrIdxImm k1 k2 s
  | .halt => Sys2Proof.Machine.execHalt s
  | .xorAImm k => Sys2Proof.Machine.execXorAImm k s
  | .xorADir k => Sys2Proof.Machine.execXorADir k s
  | .xorAIdx k => Sys2Proof.Machine.execXorAIdx k s
  | .xorDirA k => Sys2Proof.Machine.execXorDirA k s
  | .xorIdxA k => Sys2Proof.Machine.execXorIdxA k s
  | .xorDirImm k1 k2 => Sys2Proof.Machine.execXorDirImm k1 k2 s
  | .xorIdxImm k1 k2 => Sys2Proof.Machine.execXorIdxImm k1 k2 s
  | .addSp k => Sys2Proof.Machine.execAddSp k s
  | .cmpAImm k => Sys2Proof.Machine.execCmpAImm k s
  | .cmpADir k => Sys2Proof.Machine.execCmpADir k s
  | .cmpAIdx k => Sys2Proof.Machine.execCmpAIdx k s
  | .cmpDirImm k1 k2 => Sys2Proof.Machine.execCmpDirImm k1 k2 s
  | .cmpIdxImm k1 k2 => Sys2Proof.Machine.execCmpIdxImm k1 k2 s
  | .mviRead k => Sys2Proof.Machine.execMviRead k s
  | .mviWrite k => Sys2Proof.Machine.execMviWrite k s
  | .nop => Sys2Proof.Machine.execNop s
  | .andReg k1 k2 => Sys2Proof.Machine.execAndReg k1 k2 s
  | .andRegIdx k1 k2 => Sys2Proof.Machine.execAndRegIdx k1 k2 s
  | .orReg k1 k2 => Sys2Proof.Machine.execOrReg k1 k2 s
  | .orRegIdx k1 k2 => Sys2Proof.Machine.execOrRegIdx k1 k2 s
  | .xorReg k1 k2 => Sys2Proof.Machine.execXorReg k1 k2 s
  | .xorRegIdx k1 k2 => Sys2Proof.Machine.execXorRegIdx k1 k2 s
  | .tstDir k1 k2 => Sys2Proof.Machine.execTstDir k1 k2 s
  | .tstIdx k1 k2 => Sys2Proof.Machine.execTstIdx k1 k2 s
  | .tstReg k1 k2 => Sys2Proof.Machine.execTstReg k1 k2 s
  | .tstRegIdx k1 k2 => Sys2Proof.Machine.execTstRegIdx k1 k2 s
  | .swapAX => Sys2Proof.Machine.execSwapAX s
  | .swapADir k => Sys2Proof.Machine.execSwapADir k s
  | .swapXDir k => Sys2Proof.Machine.execSwapXDir k s
  | .swapASp => Sys2Proof.Machine.execSwapASp s
  | .movXSp => Sys2Proof.Machine.execMovXSp s
  | .movAImm k => Sys2Proof.Machine.execMovAImm k s
  | .movADir k => Sys2Proof.Machine.execMovADir k s
  | .movAIdx k => Sys2Proof.Machine.execMovAIdx k s
  | .movDirA k => Sys2Proof.Machine.execMovDirA k s
  | .movIdxA k => Sys2Proof.Machine.execMovIdxA k s
  | .movDirImm k1 k2 => Sys2Proof.Machine.execMovDirImm k1 k2 s
  | .movIdxImm k1 k2 => Sys2Proof.Machine.execMovIdxImm k1 k2 s
  | .movXImm k => Sys2Proof.Machine.execMovXImm k s
  | .movXDir k => Sys2Proof.Machine.execMovXDir k s
  | .movXIdx k => Sys2Proof.Machine.execMovXIdx k s
  | .movDirX k => Sys2Proof.Machine.execMovDirX k s
  | .movAX => Sys2Proof.Machine.execMovAX s
  | .movXA => Sys2Proof.Machine.execMovXA s
  | .movAReg k => Sys2Proof.Machine.execMovAReg k s
  | .movARegIdx k => Sys2Proof.Machine.execMovARegIdx k s
  | .movDirDir k1 k2 => Sys2Proof.Machine.execMovDirDir k1 k2 s
  | .movRegA k => Sys2Proof.Machine.execMovRegA k s
  | .movRegIdxA k => Sys2Proof.Machine.execMovRegIdxA k s
  | .movRegImm k1 k2 => Sys2Proof.Machine.execMovRegImm k1 k2 s
  | .movRegIdxImm k1 k2 => Sys2Proof.Machine.execMovRegIdxImm k1 k2 s
  | .aslA => Sys2Proof.Machine.execAslA s
  | .aslDir k => Sys2Proof.Machine.execAslDir k s
  | .aslIdx k => Sys2Proof.Machine.execAslIdx k s
  | .asrA => Sys2Proof.Machine.execAsrA s
  | .asrDir k => Sys2Proof.Machine.execAsrDir k s
  | .asrIdx k => Sys2Proof.Machine.execAsrIdx k s
  | .rlcA => Sys2Proof.Machine.execRlcA s
  | .rlcDir k => Sys2Proof.Machine.execRlcDir k s
  | .rlcIdx k => Sys2Proof.Machine.execRlcIdx k s
  | .rrcA => Sys2Proof.Machine.execRrcA s
  | .rrcDir k => Sys2Proof.Machine.execRrcDir k s
  | .rrcIdx k => Sys2Proof.Machine.execRrcIdx k s
  | .andF k => Sys2Proof.Machine.execAndF k s
  | .orF k => Sys2Proof.Machine.execOrF k s
  | .xorF k => Sys2Proof.Machine.execXorF k s
  | .cplA => Sys2Proof.Machine.execCplA s
  | .incA => Sys2Proof.Machine.execIncA s
  | .incX => Sys2Proof.Machine.execIncX s
  | .incDir k => Sys2Proof.Machine.execIncDir k s
  | .incIdx k => Sys2Proof.Machine.execIncIdx k s
  | .decA => Sys2Proof.Machine.execDecA s
  | .decX => Sys2Proof.Machine.execDecX s
  | .decDir k => Sys2Proof.Machine.execDecDir k s
  | .decIdx k => Sys2Proof.Machine.execDecIdx k s
  | .lcall k => Sys2Proof.Machine.execLcall k s
  | .ljmp k => Sys2Proof.Machine.execLjmp k s
  | .reti => Sys2Proof.Machine.execReti s
  | .ret => Sys2Proof.Machine.execRet s
  | .jmp k => Sys2Proof.Machine.execJmp k s
  | .call k => Sys2Proof.Machine.execCall k s
  | .jz k => Sys2Proof.Machine.execJz k s
  | .jnz k => Sys2Proof.Machine.execJnz k s
  | .jc k => Sys2Proof.Machine.execJc k s
  | .jnc k => Sys2Proof.Machine.execJnc k s
  | .jacc k => Sys2Proof.Machine.execJacc k s
  | .index k => Sys2Proof.Machine.execIndex k s

end Sys2Proof.Machine
end

