-- ==== Sys2Proof/Machine/Step.lean ====
section
/-! DEFINITION. One step of the machine: the instruction boundary, where a halted core is stuck and an enabled request is taken, then the fetched instruction. -/

namespace Sys2Proof.Machine

/-- One step (60_exceptions.md R443, 45_system.md R421). A halted core has no successor; a request that the controller
reports while F.GIE is 1 is taken, as a step of its own; otherwise the instruction at PC is executed. Either way the
controller's report at this boundary is used up. -/
def step (s : State) : Host.Outcome State Fault Refusal :=
  if s.halted then .fault .halted
  else match takenIrq s with
    | some n => ofExcept (enterInterrupt s.pollIrq n)
    | none =>
      match fetchInstr s with
      | .error r => .refused r
      | .ok i => exec i s.pollIrq

/-- `s` with the instruction whose bits are `w` (bits from `nbits` on being 0) in the three ROM bytes at PC, where `step`
fetches (20_memory.md R81). Nothing else changes. -/
def State.withFetchWord (s : State) (nbits w : Nat) : State := placeWord s nbits w

end Sys2Proof.Machine
end

