-- ==== Sys2Proof/Machine/Source.lean ====
section
/-! DEFINITION. The assembler's source text (30_encoding.md R160 to R167): characters to tokens, constants, expressions and their values. -/

namespace Sys2Proof.Asm

/-- Why a program text is not assembled. -/
inductive AsmError where
  /-- A line of more than 2,048 characters (30_encoding.md R160). -/
  | lineTooLong
  /-- A word of more than 256 characters (R160). -/
  | wordTooLong
  /-- A string or character constant that does not close (R163, R173). -/
  | openQuote
  /-- A label that does not start with a letter, '.' or '_' (R161). -/
  | badLabel
  /-- An expression or a constant that is not of the form of R163 to R165. -/
  | badExpression
  /-- An operator other than + on an external symbol (R165). -/
  | externalOperand
  /-- Operands that no row of the opcode map has (R168), or a directive's operands of another form than its rule gives. -/
  | badOperands
  /-- A word that is no mnemonic, no directive and no macro (R162, R170, R187). -/
  | unknownMnemonic
  /-- A name that nothing visible defines (R161). -/
  | undefinedName
  /-- "If a label is defined more than once, an assembly error will occur" (R182). -/
  | duplicateName
  /-- "Branch out of range" (R169). -/
  | branchOutOfRange
  /-- A byte or an instruction placed beyond the 16-bit ROM address space (10_state.md R45). -/
  | addressTooLarge
  /-- Code or data in a RAM area, or `BLK` in a ROM area (R171, R174). -/
  | wrongArea
  /-- `ORG` in a relocatable area (R188). -/
  | orgInRelocatable
  /-- "All areas with the same name must have the same attributes" (R171). -/
  | areaMismatch
  /-- A relocatable area for which the linker's placement gives no address (R171). -/
  | areaNotPlaced
  /-- "Equates must not be exported" (R182). -/
  | exportedEquate
  /-- `ELSE` or `ENDIF` without `IF`, or the reverse (R184). -/
  | badCondition
  /-- `ENDM` without `MACRO` or the reverse, a nested definition, or a reserved name (R187). -/
  | badMacro
  /-- An `INCLUDE` of a file that the project does not have (R185). -/
  | noSuchFile
  /-- More lines than the given bound: a text that includes or expands itself. -/
  | tooManyLines
  deriving DecidableEq, Repr

/-- A token of a source line. -/
inductive Token where
  /-- A name, a mnemonic, a register or a number, as it is written; the dot operator is the word of one dot. -/
  | word (cs : List Char)
  /-- A character constant, as it stands between its quotes (30_encoding.md R163). -/
  | chr (body : List Char)
  /-- A quoted text, as it stands between its quotation marks (R173, R185). -/
  | str (body : List Char)
  /-- Any other character. -/
  | sym (c : Char)
  deriving DecidableEq, Repr

/-! Characters. -/

/-- A character between two others. -/
def between (lo hi c : Char) : Bool := decide (lo.toNat ≤ c.toNat) && decide (c.toNat ≤ hi.toNat)

/-- A character as an upper-case letter: "mnemonics are not case sensitive" (30_encoding.md R162). -/
def upperChar (c : Char) : Char := if between 'a' 'z' c then Char.ofNat (c.toNat - 32) else c

/-- A word in upper case. -/
def upperWord (cs : List Char) : List Char := cs.map upperChar

/-- The characters of a word: letters, digits, underscores and dots (R161). -/
def wordChar (c : Char) : Bool :=
  between 'a' 'z' c || between 'A' 'Z' c || between '0' '9' c || c == '_' || c == '.'

/-- A blank. DESIGN CHOICE: a tab and a carriage return count as the spaces that surround words (R160 speaks of spaces
only; notes/assumptions/32.md). -/
def blankChar (c : Char) : Bool := c == ' ' || c == '\t' || c == '\r'

/-- The value of a digit in a base up to 16. -/
def digit? (base : Nat) (c : Char) : Option Nat :=
  let d := if between '0' '9' c then c.toNat - 48
    else if between 'A' 'F' (upperChar c) then (upperChar c).toNat - 55 else 16
  if d < base then some d else none

/-- The number that digits write, after those already read. -/
def digitsFrom (base acc : Nat) : List Char → Option Nat
  | [] => some acc
  | c :: cs =>
    match digit? base c with
    | some d => digitsFrom base (acc * base + d) cs
    | none => none

/-- The number that one or more digits write. -/
def digits? (base : Nat) (cs : List Char) : Option Nat := if cs = [] then none else digitsFrom base 0 cs

/-- The code of an escaped character: `\n` and `\r` are line feed and carriage return, any other stands for itself
(30_encoding.md R173, R178; notes/assumptions/33.md). -/
def escapeCode (c : Char) : Nat := if c = 'n' then 10 else if c = 'r' then 13 else c.toNat

/-- The codes of a character string, its escapes resolved (R173, R178). -/
def unescape : List Char → List Nat
  | [] => []
  | [c] => [c.toNat]
  | c :: d :: cs => if c = '\\' then escapeCode d :: unescape cs else c.toNat :: unescape (d :: cs)

/-! Constants (30_encoding.md R163, Table 17). -/

/-- A hexadecimal constant written with a final `h`. -/
def hexSuffixed? (cs : List Char) : Option Nat :=
  match cs.reverse with
  | [] => none
  | c :: ds => if upperChar c = 'H' then digits? 16 ds.reverse else none

/-- A constant written as a word: `0x4A`, `0b01001010`, `4Ah`, `0112`, `74`, tried in this order. DESIGN CHOICE: the order,
and that the radix marks may be upper case, `0X`, `0B`, `H` (R163 prints them in lower case; notes/assumptions/32.md). -/
def constant? (cs : List Char) : Option Nat :=
  let marked : Option Nat :=
    match cs with
    | '0' :: 'x' :: ds => digits? 16 ds
    | '0' :: 'X' :: ds => digits? 16 ds
    | '0' :: 'b' :: ds => digits? 2 ds
    | '0' :: 'B' :: ds => digits? 2 ds
    | _ => none
  match marked with
  | some n => some n
  | none =>
    match hexSuffixed? cs with
    | some n => some n
    | none =>
      match cs with
      | '0' :: d :: ds => digits? 8 (d :: ds)
      | _ => digits? 10 cs

/-! Lines (30_encoding.md R160, R167). -/

/-- A quoted text up to its closing quotation mark, and what follows it; a mark after a backslash does not close it. -/
def stringBody : List Char → Option (List Char × List Char)
  | [] => none
  | '"' :: rest => some ([], rest)
  | '\\' :: c :: rest => (stringBody rest).map fun r => ('\\' :: c :: r.1, r.2)
  | c :: rest => (stringBody rest).map fun r => (c :: r.1, r.2)

/-- A character constant up to its closing quote, and what follows it. DESIGN CHOICE: the escapes of strings (R173) are
those of a character constant too, of which R163 gives `\\` alone, and a lone backslash between the quotes is a backslash too
(notes/assumptions/33.md). -/
def charBody : List Char → Option (List Char × List Char)
  | '\\' :: c :: '\'' :: rest => some (['\\', c], rest)
  | c :: '\'' :: rest => some ([c], rest)
  | _ => none

/-- The tokens of a line, its comment dropped; the number bounds the characters left. -/
def lexFrom : Nat → List Char → Except AsmError (List Token)
  | 0, _ => .ok []
  | _, [] => .ok []
  | n + 1, c :: rest =>
    if blankChar c then lexFrom n rest
    else if c = ';' then .ok []
    else if c = '/' && rest.head? == some '/' then .ok []
    else if c = '"' then
      match stringBody rest with
      | none => .error .openQuote
      | some (body, more) => (lexFrom n more).map (.str body :: ·)
    else if c = '\'' then
      match charBody rest with
      | none => .error .openQuote
      | some (body, more) => (lexFrom n more).map (.chr body :: ·)
    else if wordChar c then
      (lexFrom n (rest.dropWhile wordChar)).map (.word (c :: rest.takeWhile wordChar) :: ·)
    else (lexFrom n rest).map (.sym c :: ·)

/-- Every word of the line has at most 256 characters, `n` of the current one being read: "a word is a string of
characters surrounded by spaces" (R160). -/
def wordsShort (n : Nat) : List Char → Bool
  | [] => true
  | c :: cs => if blankChar c then wordsShort 0 cs else decide (n < 256) && wordsShort (n + 1) cs

/-- The tokens of a line. -/
def lexLine (cs : List Char) : Except AsmError (List Token) := lexFrom cs.length cs

/-- The lines of a source file, within the limits of R160. -/
def sourceLines : List String → Except AsmError (List (List Char))
  | [] => .ok []
  | l :: ls =>
    if 2048 < l.toList.length then .error .lineTooLong
    else if wordsShort 0 l.toList then (sourceLines ls).map (l.toList :: ·)
    else .error .wordTooLong

/-- A token's text. -/
def Token.text : Token → List Char
  | .word cs => cs
  | .chr body => '\'' :: body ++ ['\'']
  | .str body => '"' :: body ++ ['"']
  | .sym c => [c]

/-- The text of several tokens, a blank between two words. -/
def tokensText : List Token → List Char
  | [] => []
  | .word cs :: .word ds :: ts => cs ++ ' ' :: tokensText (.word ds :: ts)
  | t :: ts => t.text ++ tokensText ts

/-! Expressions (30_encoding.md R165, R166). -/

/-- A value of the assembler: wide enough for addresses; an operand field takes its low bits
(notes/assumptions/34.md). -/
abbrev Value := BitVec 32

/-- The operators with two operands (R165). -/
inductive BinaryOp where
  | mul | div | mod | add | sub | and | xor | or
  deriving DecidableEq, Repr

/-- The operators with one operand (R165). -/
inductive UnaryOp where
  /-- Bitwise complement. -/
  | not
  /-- High byte of an address. -/
  | high
  /-- Low byte of an address. -/
  | low
  deriving DecidableEq, Repr

/-- An expression. -/
inductive Expr where
  | num (n : Nat)
  | name (cs : List Char)
  /-- The dot operator (R166). -/
  | dot
  | unary (op : UnaryOp) (e : Expr)
  | binary (op : BinaryOp) (l r : Expr)
  deriving DecidableEq, Repr

/-- Precedence, 1 binding tightest (R165). -/
def BinaryOp.level : BinaryOp → Nat
  | .mul => 2
  | .div => 2
  | .mod => 2
  | .add => 3
  | .sub => 3
  | .and => 4
  | .xor => 5
  | .or => 6

/-- Precedence, 1 binding tightest (R165). -/
def UnaryOp.level : UnaryOp → Nat
  | .not => 1
  | .high => 7
  | .low => 8

/-- The operator with two operands that a character writes (R165; the vertical bar is PRESUMED,
91_not_in_source.md N9). -/
def binaryOp? (c : Char) : Option BinaryOp :=
  if c = '*' then some .mul else if c = '/' then some .div else if c = '%' then some .mod
  else if c = '+' then some .add else if c = '-' then some .sub else if c = '&' then some .and
  else if c = '^' then some .xor else if c = '|' then some .or else none

/-- The operator with one operand that a character writes (R165). -/
def unaryOp? (c : Char) : Option UnaryOp :=
  if c = '~' then some .not else if c = '>' then some .high else if c = '<' then some .low else none

/-- What waits for its right operand: an operator, or an open parenthesis. -/
inductive Pending where
  | paren
  | unary (op : UnaryOp)
  | binary (op : BinaryOp) (l : Expr)
  deriving DecidableEq, Repr

/-- Complete the pending operators that bind at least as tightly as a level. DESIGN CHOICE: operators of one level group
from the left (R165 is silent; notes/assumptions/34.md). -/
def complete (level : Nat) : List Pending → Expr → List Pending × Expr
  | .unary op :: ps, e => if op.level ≤ level then complete level ps (.unary op e) else (.unary op :: ps, e)
  | .binary op l :: ps, e =>
    if op.level ≤ level then complete level ps (.binary op l e) else (.binary op l :: ps, e)
  | .paren :: ps, e => (.paren :: ps, e)
  | [], e => ([], e)

/-- The operand a word is: the dot, a constant or a name. -/
def wordOperand (cs : List Char) : Option Expr :=
  if cs = ['.'] then some .dot
  else match constant? cs with
    | some n => some (.num n)
    | none =>
      match cs with
      | [] => none
      | c :: _ => if between '0' '9' c then none else some (.name cs)

/-- Read an expression to the end of its tokens: `cur` is the operand just completed, `ps` what waits for one. -/
def parseFrom (ps : List Pending) : Option Expr → List Token → Option Expr
  | some e, [] =>
    match complete 8 ps e with
    | ([], r) => some r
    | _ => none
  | none, [] => none
  | none, .sym '$' :: .word cs :: ts =>
    match digits? 16 cs with
    | some n => parseFrom ps (some (.num n)) ts
    | none => none
  | none, .sym '%' :: .word cs :: ts =>
    match digits? 2 cs with
    | some n => parseFrom ps (some (.num n)) ts
    | none => none
  | none, .sym c :: ts =>
    if c = '(' then parseFrom (.paren :: ps) none ts
    else match unaryOp? c with
      | some op => parseFrom (.unary op :: ps) none ts
      | none => none
  | none, .word cs :: ts =>
    match wordOperand cs with
    | some e => parseFrom ps (some e) ts
    | none => none
  | none, .chr body :: ts => parseFrom ps (some (.num ((unescape body).headD 0))) ts
  | none, .str _ :: _ => none
  | some e, .sym c :: ts =>
    if c = ')' then
      match complete 8 ps e with
      | (.paren :: ps', r) => parseFrom ps' (some r) ts
      | _ => none
    else match binaryOp? c with
      | some op => parseFrom (.binary op (complete op.level ps e).2 :: (complete op.level ps e).1) none ts
      | none => none
  | some _, .word _ :: _ => none
  | some _, .chr _ :: _ => none
  | some _, .str _ :: _ => none

/-- The expression that tokens write (R165). -/
def parseExpr (ts : List Token) : Option Expr := parseFrom [] none ts

/-- The value of an operator with two operands; a division by zero has none. -/
def BinaryOp.eval (op : BinaryOp) (a b : Value) : Option Value :=
  match op with
  | .mul => some (a * b)
  | .div => if b = 0 then none else some (a / b)
  | .mod => if b = 0 then none else some (a % b)
  | .add => some (a + b)
  | .sub => some (a - b)
  | .and => some (a &&& b)
  | .xor => some (a ^^^ b)
  | .or => some (a ||| b)

/-- The value of an operator with one operand: the high and low byte are those of a 16-bit address (R165, R166). -/
def UnaryOp.eval (op : UnaryOp) (a : Value) : Value :=
  match op with
  | .not => ~~~a
  | .high => (a >>> 8) &&& 0xFF#32
  | .low => a &&& 0xFF#32

/-- A value and whether it rests on an external symbol (R165). -/
structure Symbol where
  value : Value
  /-- It rests on a name that another source file defines. -/
  external : Bool
  deriving DecidableEq, Repr

/-- The value of an expression, given the values of names and of the dot: "Only the Addition expression (+) may apply to a
relocatable symbol (i.e., an external symbol)" (R165). -/
def Expr.eval (lookup : List Char → Option Symbol) (here : Value) : Expr → Except AsmError Symbol
  | .num n => .ok ⟨BitVec.ofNat 32 n, false⟩
  | .name cs =>
    match lookup cs with
    | some v => .ok v
    | none => .error .undefinedName
  | .dot => .ok ⟨here, false⟩
  | .unary op e =>
    match e.eval lookup here with
    | .error err => .error err
    | .ok a => if a.external then .error .externalOperand else .ok ⟨op.eval a.value, false⟩
  | .binary op l r =>
    match l.eval lookup here, r.eval lookup here with
    | .error e, _ => .error e
    | .ok _, .error e => .error e
    | .ok a, .ok b =>
      if (a.external || b.external) && op != .add then .error .externalOperand
      else match op.eval a.value b.value with
        | some v => .ok ⟨v, a.external || b.external⟩
        | none => .error .badExpression

/-- A constant, a label or '.': what `EQU` and `ORG` take (R182, R188). -/
def Expr.plain : Expr → Bool
  | .num _ => true
  | .name _ => true
  | .dot => true
  | .unary _ _ => false
  | .binary _ _ _ => false

end Sys2Proof.Asm
end

