-- ==== Sys2Proof/Machine/Timing.lean ====
section
/-! DEFINITION. Cycle counts (70_reset_and_hazards.md R502): timing that no step depends on. -/

namespace Sys2Proof.Machine

/-- CPU clock cycles of an instruction that does not cross a ROM page boundary: the "cycles" column of
30_encoding.md R137. -/
def instrCycles : Instr → Nat
  | .ssc => 15
  | .addAImm _ => 4
  | .addADir _ => 6
  | .addAIdx _ => 7
  | .addDirA _ => 7
  | .addIdxA _ => 8
  | .addDirImm _ _ => 9
  | .addIdxImm _ _ => 10
  | .pushA => 4
  | .adcAImm _ => 4
  | .adcADir _ => 6
  | .adcAIdx _ => 7
  | .adcDirA _ => 7
  | .adcIdxA _ => 8
  | .adcDirImm _ _ => 9
  | .adcIdxImm _ _ => 10
  | .pushX => 4
  | .subAImm _ => 4
  | .subADir _ => 6
  | .subAIdx _ => 7
  | .subDirA _ => 7
  | .subIdxA _ => 8
  | .subDirImm _ _ => 9
  | .subIdxImm _ _ => 10
  | .popA => 5
  | .sbbAImm _ => 4
  | .sbbADir _ => 6
  | .sbbAIdx _ => 7
  | .sbbDirA _ => 7
  | .sbbIdxA _ => 8
  | .sbbDirImm _ _ => 9
  | .sbbIdxImm _ _ => 10
  | .popX => 5
  | .andAImm _ => 4
  | .andADir _ => 6
  | .andAIdx _ => 7
  | .andDirA _ => 7
  | .andIdxA _ => 8
  | .andDirImm _ _ => 9
  | .andIdxImm _ _ => 10
  | .romx => 11
  | .orAImm _ => 4
  | .orADir _ => 6
  | .orAIdx _ => 7
  | .orDirA _ => 7
  | .orIdxA _ => 8
  | .orDirImm _ _ => 9
  | .orIdxImm _ _ => 10
  | .halt => 9
  | .xorAImm _ => 4
  | .xorADir _ => 6
  | .xorAIdx _ => 7
  | .xorDirA _ => 7
  | .xorIdxA _ => 8
  | .xorDirImm _ _ => 9
  | .xorIdxImm _ _ => 10
  | .addSp _ => 5
  | .cmpAImm _ => 5
  | .cmpADir _ => 7
  | .cmpAIdx _ => 8
  | .cmpDirImm _ _ => 8
  | .cmpIdxImm _ _ => 9
  | .mviRead _ => 10
  | .mviWrite _ => 10
  | .nop => 4
  | .andReg _ _ => 9
  | .andRegIdx _ _ => 10
  | .orReg _ _ => 9
  | .orRegIdx _ _ => 10
  | .xorReg _ _ => 9
  | .xorRegIdx _ _ => 10
  | .tstDir _ _ => 8
  | .tstIdx _ _ => 9
  | .tstReg _ _ => 9
  | .tstRegIdx _ _ => 10
  | .swapAX => 5
  | .swapADir _ => 7
  | .swapXDir _ => 7
  | .swapASp => 5
  | .movXSp => 4
  | .movAImm _ => 4
  | .movADir _ => 5
  | .movAIdx _ => 6
  | .movDirA _ => 5
  | .movIdxA _ => 6
  | .movDirImm _ _ => 8
  | .movIdxImm _ _ => 9
  | .movXImm _ => 4
  | .movXDir _ => 6
  | .movXIdx _ => 7
  | .movDirX _ => 5
  | .movAX => 4
  | .movXA => 4
  | .movAReg _ => 6
  | .movARegIdx _ => 7
  | .movDirDir _ _ => 10
  | .movRegA _ => 5
  | .movRegIdxA _ => 6
  | .movRegImm _ _ => 8
  | .movRegIdxImm _ _ => 9
  | .aslA => 4
  | .aslDir _ => 7
  | .aslIdx _ => 8
  | .asrA => 4
  | .asrDir _ => 7
  | .asrIdx _ => 8
  | .rlcA => 4
  | .rlcDir _ => 7
  | .rlcIdx _ => 8
  | .rrcA => 4
  | .rrcDir _ => 7
  | .rrcIdx _ => 8
  | .andF _ => 4
  | .orF _ => 4
  | .xorF _ => 4
  | .cplA => 4
  | .incA => 4
  | .incX => 4
  | .incDir _ => 7
  | .incIdx _ => 8
  | .decA => 4
  | .decX => 4
  | .decDir _ => 7
  | .decIdx _ => 8
  | .lcall _ => 13
  | .ljmp _ => 7
  | .reti => 10
  | .ret => 8
  | .jmp _ => 5
  | .call _ => 11
  | .jz _ => 5
  | .jnz _ => 5
  | .jc _ => 5
  | .jnc _ => 5
  | .jacc _ => 7
  | .index _ => 13

/-- The instruction is a jump that is taken: the exception to the page-boundary cycle (70_reset_and_hazards.md R502;
notes/assumptions/30.md). -/
def takenJump (i : Instr) (s : State) : Bool :=
  match i with
  | .jmp _ => true
  | .jacc _ => true
  | .ljmp _ => true
  | .jz _ => flagZ s.f
  | .jnz _ => !flagZ s.f
  | .jc _ => flagC s.f
  | .jnc _ => !flagC s.f
  | _ => false

/-- The bytes of an instruction of `n` bytes at `pc`, or the advance past them, cross from 0x..FF to 0x..00
(70_reset_and_hazards.md R502). -/
def crossesPage (pc n : Word) : Bool := decide ((pc + n).extractLsb' 8 8 ≠ pc.extractLsb' 8 8)

/-- Cycles of executing an instruction in a state (70_reset_and_hazards.md R502). -/
def execCycles (i : Instr) (s : State) : Nat :=
  instrCycles i + (if crossesPage s.pc (BitVec.ofNat 16 i.length) && !takenJump i s then 1 else 0)

/-- "Interrupt acknowledge to Interrupt Vector table = 13 cycles" (60_exceptions.md R451). -/
def interruptCycles : Nat := 13

/-- Cycles of one step: none where there is no step (60_exceptions.md R451, 70_reset_and_hazards.md R502). The time of a
supervisory routine is not in the source and not counted (45_system.md R424). -/
def stepCycles (s : State) : Option Nat :=
  if s.halted then none
  else match takenIrq s with
    | some _ => some interruptCycles
    | none =>
      match fetchInstr s with
      | .error _ => none
      | .ok i => some (execCycles i s)

end Sys2Proof.Machine
end

