-- ==== Sys2Proof/WellFormed.lean ====
section
/-! DEFINITION. What is well formed: an instruction, a source operand before it is encoded, a device profile. -/

namespace Sys2Proof

/-- An instruction is well formed: always. "Every value of the operand bytes is legal for every instruction"
(30_encoding.md R138), and the widths of the operand fields are the types of the constructors' arguments. -/
def Instr.wf (_ : Instr) : Bool := true

/-- The displacement an assembler forms for `JMP`, `Jcc`, `JACC`, `CALL`, `INDEX` fits its 12 bits; outside it reports
"branch out of range" (30_encoding.md R169). -/
def relOperandOk (k : Int) : Bool := decide (-2048 ≤ k) && decide (k ≤ 2047)

/-- A 16-bit target of `LJMP`, `LCALL` is in range: "0 ≤ k ≤ 65535" (30_encoding.md R136). -/
def wordOperandOk (k : Int) : Bool := decide (0 ≤ k) && decide (k ≤ 65535)

/-- An entry of a register-space or ROM listing lies inside its space. -/
def cellsBelow (n : Nat) (m : List Host.Cell) : Bool := m.all fun c => decide (c.1 < n)

/-- A profile is one a device can have (00_scope.md R4): at least one page; the implemented bytes within the pages; one page
for "256 bytes of RAM or less", more of them with "512 bytes of RAM or more"; a stack page that exists; at most 64 KB of
ROM, the Flash in 64-byte blocks; register locations inside the two banks of 256. -/
def Profile.wf (p : Profile) : Bool :=
  decide (1 ≤ p.ramPages) && decide (p.ramSize ≤ p.ramPages * 256) &&
  (decide (p.ramPages = 1) || decide (512 ≤ p.ramSize)) && decide (p.stackPage < p.ramPages) &&
  decide (p.flashSize ≤ 65536) && decide (p.flashSize % 64 = 0) && decide (p.cppDr < 512) && decide (p.dprDr < 512) && decide (p.dpwDr < 512) &&
  p.devices.all (fun n => decide (n < 512)) && cellsBelow 512 p.regPowerOn

end Sys2Proof
end

