-- ==== Sys2Proof/Machine/Assembler.lean ====
section
/-! DEFINITION. The assembler: which ROM bytes a program text becomes (30_encoding.md R160 to R191, 00_scope.md R15): operands, the instruction formats, areas, labels, directives and macros in a first pass, bytes in a second; the listing file (R192) and the map file (R193). -/

namespace Sys2Proof.Asm

/-! Operands (30_encoding.md R164, R168). -/

/-- The forms of an operand in the "Instruction Format" column. -/
inductive Shape where
  | a | x | f | sp
  /-- `expr` -/
  | imm
  /-- `[expr]` -/
  | dir
  /-- `[X+expr]` -/
  | idx
  /-- `reg[expr]` -/
  | reg
  /-- `reg[X+expr]` -/
  | regIdx
  /-- `[[expr]++]` -/
  | ind
  deriving DecidableEq, Repr

/-- An operand: its form and, unless it is a register, its expression. -/
structure Operand where
  shape : Shape
  expr : Option Expr
  deriving DecidableEq, Repr

/-- The register a word names (30_encoding.md R164; notes/assumptions/32.md). -/
def registerShape (cs : List Char) : Option Shape :=
  let u := upperWord cs
  if u = ['A'] then some .a else if u = ['X'] then some .x
  else if u = ['F'] then some .f else if u = ['S', 'P'] then some .sp else none

/-- The tokens between an opening bracket, already read, and the final closing one. -/
def insideBracket (ts : List Token) : Option (List Token) :=
  match ts.reverse with
  | .sym ']' :: inner => some inner.reverse
  | _ => none

/-- The tokens of `expr` in `[expr]++]`, what stands after the outer bracket of `[[expr]++]`. -/
def insideIndirect (ts : List Token) : Option (List Token) :=
  match ts.reverse with
  | .sym ']' :: .sym '+' :: .sym '+' :: .sym ']' :: inner => some inner.reverse
  | _ => none

/-- An operand with an expression. -/
def withExpr (sh : Shape) (ts : List Token) : Option Operand := (parseExpr ts).map fun e => ⟨sh, some e⟩

/-- `expr]` or `X+expr]`, what stands after an opening bracket: the direct or the indexed form. -/
def bracketed (direct indexed : Shape) (ts : List Token) : Option Operand :=
  match insideBracket ts with
  | some (.word w :: .sym '+' :: rest) =>
    if upperWord w = ['X'] then withExpr indexed rest else withExpr direct (.word w :: .sym '+' :: rest)
  | some inner => withExpr direct inner
  | none => none

/-- The operand that tokens write (30_encoding.md R164). -/
def parseOperand (ts : List Token) : Option Operand :=
  match ts with
  | [.word w] =>
    match registerShape w with
    | some sh => some ⟨sh, none⟩
    | none => withExpr .imm ts
  | .sym '[' :: .sym '[' :: rest =>
    match insideIndirect rest with
    | some inner => withExpr .ind inner
    | none => none
  | .sym '[' :: rest => bracketed .dir .idx rest
  | .word w :: .sym '[' :: rest =>
    if upperWord w = ['R', 'E', 'G'] then bracketed .reg .regIdx rest else none
  | _ => withExpr .imm ts

/-- The tokens between commas; one empty list for none. -/
def splitCommas : List Token → List (List Token)
  | [] => [[]]
  | t :: ts =>
    match splitCommas ts with
    | p :: ps => if t = .sym ',' then [] :: p :: ps else (t :: p) :: ps
    | [] => [[t]]

/-- Every element answered, or none. -/
def allSome {α β : Type} (g : α → Option β) : List α → Option (List β)
  | [] => some []
  | x :: xs =>
    match g x, allSome g xs with
    | some y, some ys => some (y :: ys)
    | _, _ => none

/-- The operands of a statement. -/
def parseOperands (ts : List Token) : Option (List Operand) :=
  if ts = [] then some [] else allSome parseOperand (splitCommas ts)

/-! Instruction formats. -/

/-- One format of an instruction and the row of the opcode map it stands for. -/
structure SyntaxRow where
  mnemonic : String
  shapes : List Shape
  row : Row

/-- Instruction formats, byte 0 from 0x00 to 0x0F (30_encoding.md R137, R168). -/
def syntaxTable0 : List SyntaxRow :=
  [⟨"SSC", [], .f1 .ssc⟩,
   ⟨"ADD", [.a, .imm], .f2 Instr.addAImm⟩,
   ⟨"ADD", [.a, .dir], .f2 Instr.addADir⟩,
   ⟨"ADD", [.a, .idx], .f2 Instr.addAIdx⟩,
   ⟨"ADD", [.dir, .a], .f2 Instr.addDirA⟩,
   ⟨"ADD", [.idx, .a], .f2 Instr.addIdxA⟩,
   ⟨"ADD", [.dir, .imm], .f3 Instr.addDirImm⟩,
   ⟨"ADD", [.idx, .imm], .f3 Instr.addIdxImm⟩,
   ⟨"PUSH", [.a], .f1 .pushA⟩,
   ⟨"ADC", [.a, .imm], .f2 Instr.adcAImm⟩,
   ⟨"ADC", [.a, .dir], .f2 Instr.adcADir⟩,
   ⟨"ADC", [.a, .idx], .f2 Instr.adcAIdx⟩,
   ⟨"ADC", [.dir, .a], .f2 Instr.adcDirA⟩,
   ⟨"ADC", [.idx, .a], .f2 Instr.adcIdxA⟩,
   ⟨"ADC", [.dir, .imm], .f3 Instr.adcDirImm⟩,
   ⟨"ADC", [.idx, .imm], .f3 Instr.adcIdxImm⟩]

/-- Instruction formats, byte 0 from 0x10 to 0x1F (30_encoding.md R137, R168). -/
def syntaxTable1 : List SyntaxRow :=
  [⟨"PUSH", [.x], .f1 .pushX⟩,
   ⟨"SUB", [.a, .imm], .f2 Instr.subAImm⟩,
   ⟨"SUB", [.a, .dir], .f2 Instr.subADir⟩,
   ⟨"SUB", [.a, .idx], .f2 Instr.subAIdx⟩,
   ⟨"SUB", [.dir, .a], .f2 Instr.subDirA⟩,
   ⟨"SUB", [.idx, .a], .f2 Instr.subIdxA⟩,
   ⟨"SUB", [.dir, .imm], .f3 Instr.subDirImm⟩,
   ⟨"SUB", [.idx, .imm], .f3 Instr.subIdxImm⟩,
   ⟨"POP", [.a], .f1 .popA⟩,
   ⟨"SBB", [.a, .imm], .f2 Instr.sbbAImm⟩,
   ⟨"SBB", [.a, .dir], .f2 Instr.sbbADir⟩,
   ⟨"SBB", [.a, .idx], .f2 Instr.sbbAIdx⟩,
   ⟨"SBB", [.dir, .a], .f2 Instr.sbbDirA⟩,
   ⟨"SBB", [.idx, .a], .f2 Instr.sbbIdxA⟩,
   ⟨"SBB", [.dir, .imm], .f3 Instr.sbbDirImm⟩,
   ⟨"SBB", [.idx, .imm], .f3 Instr.sbbIdxImm⟩]

/-- Instruction formats, byte 0 from 0x20 to 0x2F (30_encoding.md R137, R168). -/
def syntaxTable2 : List SyntaxRow :=
  [⟨"POP", [.x], .f1 .popX⟩,
   ⟨"AND", [.a, .imm], .f2 Instr.andAImm⟩,
   ⟨"AND", [.a, .dir], .f2 Instr.andADir⟩,
   ⟨"AND", [.a, .idx], .f2 Instr.andAIdx⟩,
   ⟨"AND", [.dir, .a], .f2 Instr.andDirA⟩,
   ⟨"AND", [.idx, .a], .f2 Instr.andIdxA⟩,
   ⟨"AND", [.dir, .imm], .f3 Instr.andDirImm⟩,
   ⟨"AND", [.idx, .imm], .f3 Instr.andIdxImm⟩,
   ⟨"ROMX", [], .f1 .romx⟩,
   ⟨"OR", [.a, .imm], .f2 Instr.orAImm⟩,
   ⟨"OR", [.a, .dir], .f2 Instr.orADir⟩,
   ⟨"OR", [.a, .idx], .f2 Instr.orAIdx⟩,
   ⟨"OR", [.dir, .a], .f2 Instr.orDirA⟩,
   ⟨"OR", [.idx, .a], .f2 Instr.orIdxA⟩,
   ⟨"OR", [.dir, .imm], .f3 Instr.orDirImm⟩,
   ⟨"OR", [.idx, .imm], .f3 Instr.orIdxImm⟩]

/-- Instruction formats, byte 0 from 0x30 to 0x3F (30_encoding.md R137, R168). -/
def syntaxTable3 : List SyntaxRow :=
  [⟨"HALT", [], .f1 .halt⟩,
   ⟨"XOR", [.a, .imm], .f2 Instr.xorAImm⟩,
   ⟨"XOR", [.a, .dir], .f2 Instr.xorADir⟩,
   ⟨"XOR", [.a, .idx], .f2 Instr.xorAIdx⟩,
   ⟨"XOR", [.dir, .a], .f2 Instr.xorDirA⟩,
   ⟨"XOR", [.idx, .a], .f2 Instr.xorIdxA⟩,
   ⟨"XOR", [.dir, .imm], .f3 Instr.xorDirImm⟩,
   ⟨"XOR", [.idx, .imm], .f3 Instr.xorIdxImm⟩,
   ⟨"ADD", [.sp, .imm], .f2 Instr.addSp⟩,
   ⟨"CMP", [.a, .imm], .f2 Instr.cmpAImm⟩,
   ⟨"CMP", [.a, .dir], .f2 Instr.cmpADir⟩,
   ⟨"CMP", [.a, .idx], .f2 Instr.cmpAIdx⟩,
   ⟨"CMP", [.dir, .imm], .f3 Instr.cmpDirImm⟩,
   ⟨"CMP", [.idx, .imm], .f3 Instr.cmpIdxImm⟩,
   ⟨"MVI", [.a, .ind], .f2 Instr.mviRead⟩,
   ⟨"MVI", [.ind, .a], .f2 Instr.mviWrite⟩]

/-- Instruction formats, byte 0 from 0x40 to 0x4F (30_encoding.md R137, R168). -/
def syntaxTable4 : List SyntaxRow :=
  [⟨"NOP", [], .f1 .nop⟩,
   ⟨"AND", [.reg, .imm], .f3 Instr.andReg⟩,
   ⟨"AND", [.regIdx, .imm], .f3 Instr.andRegIdx⟩,
   ⟨"OR", [.reg, .imm], .f3 Instr.orReg⟩,
   ⟨"OR", [.regIdx, .imm], .f3 Instr.orRegIdx⟩,
   ⟨"XOR", [.reg, .imm], .f3 Instr.xorReg⟩,
   ⟨"XOR", [.regIdx, .imm], .f3 Instr.xorRegIdx⟩,
   ⟨"TST", [.dir, .imm], .f3 Instr.tstDir⟩,
   ⟨"TST", [.idx, .imm], .f3 Instr.tstIdx⟩,
   ⟨"TST", [.reg, .imm], .f3 Instr.tstReg⟩,
   ⟨"TST", [.regIdx, .imm], .f3 Instr.tstRegIdx⟩,
   ⟨"SWAP", [.a, .x], .f1 .swapAX⟩,
   ⟨"SWAP", [.a, .dir], .f2 Instr.swapADir⟩,
   ⟨"SWAP", [.x, .dir], .f2 Instr.swapXDir⟩,
   ⟨"SWAP", [.a, .sp], .f1 .swapASp⟩,
   ⟨"MOV", [.x, .sp], .f1 .movXSp⟩]

/-- Instruction formats, byte 0 from 0x50 to 0x5F (30_encoding.md R137, R168). -/
def syntaxTable5 : List SyntaxRow :=
  [⟨"MOV", [.a, .imm], .f2 Instr.movAImm⟩,
   ⟨"MOV", [.a, .dir], .f2 Instr.movADir⟩,
   ⟨"MOV", [.a, .idx], .f2 Instr.movAIdx⟩,
   ⟨"MOV", [.dir, .a], .f2 Instr.movDirA⟩,
   ⟨"MOV", [.idx, .a], .f2 Instr.movIdxA⟩,
   ⟨"MOV", [.dir, .imm], .f3 Instr.movDirImm⟩,
   ⟨"MOV", [.idx, .imm], .f3 Instr.movIdxImm⟩,
   ⟨"MOV", [.x, .imm], .f2 Instr.movXImm⟩,
   ⟨"MOV", [.x, .dir], .f2 Instr.movXDir⟩,
   ⟨"MOV", [.x, .idx], .f2 Instr.movXIdx⟩,
   ⟨"MOV", [.dir, .x], .f2 Instr.movDirX⟩,
   ⟨"MOV", [.a, .x], .f1 .movAX⟩,
   ⟨"MOV", [.x, .a], .f1 .movXA⟩,
   ⟨"MOV", [.a, .reg], .f2 Instr.movAReg⟩,
   ⟨"MOV", [.a, .regIdx], .f2 Instr.movARegIdx⟩,
   ⟨"MOV", [.dir, .dir], .f3 Instr.movDirDir⟩]

/-- Instruction formats, byte 0 from 0x60 to 0x6F (30_encoding.md R137, R168). -/
def syntaxTable6 : List SyntaxRow :=
  [⟨"MOV", [.reg, .a], .f2 Instr.movRegA⟩,
   ⟨"MOV", [.regIdx, .a], .f2 Instr.movRegIdxA⟩,
   ⟨"MOV", [.reg, .imm], .f3 Instr.movRegImm⟩,
   ⟨"MOV", [.regIdx, .imm], .f3 Instr.movRegIdxImm⟩,
   ⟨"ASL", [.a], .f1 .aslA⟩,
   ⟨"ASL", [.dir], .f2 Instr.aslDir⟩,
   ⟨"ASL", [.idx], .f2 Instr.aslIdx⟩,
   ⟨"ASR", [.a], .f1 .asrA⟩,
   ⟨"ASR", [.dir], .f2 Instr.asrDir⟩,
   ⟨"ASR", [.idx], .f2 Instr.asrIdx⟩,
   ⟨"RLC", [.a], .f1 .rlcA⟩,
   ⟨"RLC", [.dir], .f2 Instr.rlcDir⟩,
   ⟨"RLC", [.idx], .f2 Instr.rlcIdx⟩,
   ⟨"RRC", [.a], .f1 .rrcA⟩,
   ⟨"RRC", [.dir], .f2 Instr.rrcDir⟩,
   ⟨"RRC", [.idx], .f2 Instr.rrcIdx⟩]

/-- Instruction formats, byte 0 from 0x70 to 0x7F (30_encoding.md R137, R168). -/
def syntaxTable7 : List SyntaxRow :=
  [⟨"AND", [.f, .imm], .f2 Instr.andF⟩,
   ⟨"OR", [.f, .imm], .f2 Instr.orF⟩,
   ⟨"XOR", [.f, .imm], .f2 Instr.xorF⟩,
   ⟨"CPL", [.a], .f1 .cplA⟩,
   ⟨"INC", [.a], .f1 .incA⟩,
   ⟨"INC", [.x], .f1 .incX⟩,
   ⟨"INC", [.dir], .f2 Instr.incDir⟩,
   ⟨"INC", [.idx], .f2 Instr.incIdx⟩,
   ⟨"DEC", [.a], .f1 .decA⟩,
   ⟨"DEC", [.x], .f1 .decX⟩,
   ⟨"DEC", [.dir], .f2 Instr.decDir⟩,
   ⟨"DEC", [.idx], .f2 Instr.decIdx⟩,
   ⟨"LCALL", [.imm], .f3l Instr.lcall⟩,
   ⟨"LJMP", [.imm], .f3l Instr.ljmp⟩,
   ⟨"RETI", [], .f1 .reti⟩,
   ⟨"RET", [], .f1 .ret⟩]

/-- Instruction formats, byte 0 from 0x80 to 0xFF (30_encoding.md R137, R168). -/
def syntaxTable8 : List SyntaxRow :=
  [⟨"JMP", [.imm], .f2r Instr.jmp⟩,
   ⟨"CALL", [.imm], .f2r Instr.call⟩,
   ⟨"JZ", [.imm], .f2r Instr.jz⟩,
   ⟨"JNZ", [.imm], .f2r Instr.jnz⟩,
   ⟨"JC", [.imm], .f2r Instr.jc⟩,
   ⟨"JNC", [.imm], .f2r Instr.jnc⟩,
   ⟨"JACC", [.imm], .f2r Instr.jacc⟩,
   ⟨"INDEX", [.imm], .f2r Instr.index⟩]

/-- The instruction formats, in the order of the opcode map: "mapping from syntax to opcode is one to one" (30_encoding.md R168). -/
def syntaxTable : List SyntaxRow :=
  syntaxTable0 ++ syntaxTable1 ++ syntaxTable2 ++ syntaxTable3 ++ syntaxTable4 ++ syntaxTable5 ++ syntaxTable6 ++ syntaxTable7 ++ syntaxTable8

/-- A word is a mnemonic (30_encoding.md R162). -/
def isMnemonic (w : List Char) : Bool := syntaxTable.any fun r => r.mnemonic.toList == upperWord w

/-- The two spellings of `MVI`'s indirect operand are one (30_encoding.md R164, 90_conflicts.md C17). -/
def mviShape (sh : Shape) : Shape := if sh = .dir then .ind else sh

/-- The format that a mnemonic and operand forms select (30_encoding.md R168). -/
def selectRow (w : List Char) (shapes : List Shape) : Option SyntaxRow :=
  let u := upperWord w
  let sh := if u = ['M', 'V', 'I'] then shapes.map mviShape else shapes
  syntaxTable.find? fun r => r.shapes == sh && r.mnemonic.toList == u

/-- What a displacement is added to, beyond pc0: 2 for `CALL` and `INDEX`, 1 for the jumps (30_encoding.md R169). -/
def relBase (w : List Char) : Nat :=
  if upperWord w = ['C', 'A', 'L', 'L'] || upperWord w = ['I', 'N', 'D', 'E', 'X'] then 2 else 1

/-! Directives (30_encoding.md R170). -/

/-- The directives of Table A-5. -/
inductive Directive where
  | dArea | dAsciz | dBlk | dBlkw | dDb | dDs | dDsu | dDw | dDwl | dElse | dEndif | dEndm | dEqu | dExport | dIf
  | dInclude | dLiteral | dEndLiteral | dMacro | dOrg | dSection | dEndSection
  deriving DecidableEq, Repr

/-- The directives' names. -/
def directiveNames : List (String × Directive) :=
  [("AREA", .dArea), ("ASCIZ", .dAsciz), ("BLK", .dBlk), ("BLKW", .dBlkw), ("DB", .dDb), ("DS", .dDs), ("DSU", .dDsu),
   ("DW", .dDw), ("DWL", .dDwl), ("ELSE", .dElse), ("ENDIF", .dEndif), ("ENDM", .dEndm), ("EQU", .dEqu),
   ("EXPORT", .dExport), ("IF", .dIf), ("INCLUDE", .dInclude), (".LITERAL", .dLiteral),
   (".ENDLITERAL", .dEndLiteral), ("MACRO", .dMacro), ("ORG", .dOrg), (".SECTION", .dSection),
   (".ENDSECTION", .dEndSection)]

/-- The directive a word names: "case is ignored". -/
def directive? (w : List Char) : Option Directive :=
  (directiveNames.find? fun d => d.1.toList == upperWord w).map Prod.snd

/-! The assembler's state. -/

/-- An area (30_encoding.md R171). -/
structure Area where
  name : List Char
  /-- Variables in RAM; otherwise code or data in Flash. -/
  ram : Bool
  /-- `ABS`; otherwise `REL`. -/
  absolute : Bool
  /-- `OVR`; otherwise `CON`. -/
  overlaid : Bool
  /-- Where it begins: 0, or what the linker's placement gives. -/
  base : Nat
  /-- The "Program/Data Counter". -/
  counter : Nat
  /-- Its attributes are fixed: an `AREA` line gave them, or it was used under the default ones. -/
  settled : Bool
  deriving DecidableEq, Repr

/-- A name with a value. -/
structure Definition where
  /-- The source file that defines it. -/
  file : Nat
  /-- The stretch between local or global labels that a re-usable local label belongs to; `none` for other names. -/
  scope : Option Nat
  name : List Char
  value : Value
  /-- Defined with `::`. -/
  exported : Bool
  /-- Defined by `EQU`. -/
  equate : Bool
  deriving DecidableEq, Repr

/-- What is placed at an address. -/
inductive Content where
  /-- An instruction: its format, its operands' expressions, what a displacement is relative to. -/
  | code (row : Row) (operands : List Expr) (relative : Nat)
  /-- `DB`. -/
  | bytes (values : List Expr)
  /-- `DW`, or `DWL` when `little`. -/
  | words (little : Bool) (values : List Expr)
  /-- `DS`, `ASCIZ`, `DSU`. -/
  | text (data : List Byte)
  /-- `BLK`, `BLKW`: RAM bytes reserved. -/
  | space (size : Nat)

/-- Contents placed by the first pass: where they come from and what names in them mean. -/
structure Item where
  file : Nat
  scope : Nat
  /-- The line of the source file. -/
  line : Nat
  /-- The area's name. -/
  area : List Char
  addr : Nat
  content : Content

/-- A source line after the first pass. -/
structure PassedLine where
  file : Nat
  line : Nat
  text : List Char
  /-- The "Program/Data Counter" after the line. -/
  counter : Nat
  deriving DecidableEq, Repr

/-- An open `IF` (30_encoding.md R184). -/
structure Condition where
  /-- The lines of this branch are assembled. -/
  active : Bool
  /-- The lines after `ELSE` would be. -/
  otherwise : Bool
  deriving DecidableEq, Repr

/-- The state of the first pass. -/
structure Pass where
  /-- The number of the source file. -/
  file : Nat
  /-- The number of its line. -/
  line : Nat
  scope : Nat
  /-- The current area first. -/
  areas : List Area
  names : List Definition
  /-- `EXPORT`ed names with their files. -/
  exports : List (Nat × List Char)
  conditions : List Condition
  /-- The macros of this source file: names and bodies. -/
  macros : List (List Char × List (List Char))
  /-- The macro being defined, its lines newest first. -/
  defining : Option (List Char × List (List Char))
  /-- Newest first. -/
  items : List Item
  /-- Newest first. -/
  passed : List PassedLine

/-- A source file. -/
structure SourceFile where
  name : String
  lines : List String
  deriving DecidableEq, Repr

/-- What is assembled: the source files, the files they may include, and where the linker puts relocatable areas. -/
structure Project where
  sources : List SourceFile
  includes : List SourceFile
  placement : List (String × Nat)
  deriving DecidableEq, Repr

/-- The area in force before any `AREA`: "text", "default code area" (30_encoding.md R172); its attributes until a line
names it are the defaults (R171; notes/assumptions/35.md). -/
def textArea : Area := ⟨['t', 'e', 'x', 't'], false, true, false, 0, 0, false⟩

/-- The first pass before any line. -/
def Pass.start : Pass := ⟨0, 0, 0, [textArea], [], [], [], [], none, [], []⟩

/-- The current area. -/
def Pass.area (p : Pass) : Area := p.areas.headD textArea

/-- The current area used: its counter set, its attributes fixed. -/
def Pass.moveTo (p : Pass) (addr : Nat) : Pass :=
  { p with areas := { p.area with counter := addr, settled := true } :: p.areas.tail }

/-- Lines are being assembled. -/
def Pass.active (p : Pass) : Bool :=
  match p.conditions with
  | [] => true
  | c :: _ => c.active

/-! Names (30_encoding.md R161, R182, R183). -/

/-- A re-usable local label, `.name`. -/
def isReusable (cs : List Char) : Bool := cs.head? == some '.'

/-- A name is made of letters, digits and underscores after a first letter, '.' or '_'. -/
def labelOk (cs : List Char) : Bool :=
  match cs with
  | [] => false
  | c :: rest => !between '0' '9' c && !rest.contains '.' && (c != '.' || rest != [])

/-- A definition is global: made with `::`, or a label that its file exports, which is "the same" (R183). DESIGN CHOICE: a
re-usable label stays local, without an error, where it is written `.name::` or exported (R161, R183 give no such form;
notes/assumptions/36.md). -/
def isGlobal (exports : List (Nat × List Char)) (d : Definition) : Bool :=
  d.scope == none && (d.exported || (!d.equate && exports.contains (d.file, d.name)))

/-- A definition is made in a file, for a re-usable label in this stretch of it. -/
def isOwn (file scope : Nat) (d : Definition) : Bool := d.file == file && (d.scope == none || d.scope == some scope)

/-- A name that a file itself defines, at a stretch of it. -/
def ownName (names : List Definition) (file scope : Nat) (cs : List Char) : Option Symbol :=
  (names.find? fun d => d.name == cs && isOwn file scope d).map fun d => ⟨d.value, false⟩

/-- What a name means in a file, at a stretch of it: what the file itself defines, else what another file makes global.
DESIGN CHOICE: where both define it, the file's own definition is meant (R161, R183 are silent;
notes/assumptions/43.md). -/
def lookupName (names : List Definition) (exports : List (Nat × List Char)) (file scope : Nat) (cs : List Char) :
    Option Symbol :=
  match ownName names file scope cs with
  | some v => some v
  | none => (names.find? fun d => d.name == cs && isGlobal exports d).map fun d => ⟨d.value, true⟩

/-- The value of an expression at this point of the first pass, from the names that the file has defined so far:
"symbols resolvable by the assembler" (R165; notes/assumptions/36.md). -/
def Pass.evaluate (p : Pass) (e : Expr) : Except AsmError Value :=
  (e.eval (ownName p.names p.file p.scope) (BitVec.ofNat 32 p.area.counter)).map Symbol.value

/-- The value of the expression that tokens write. -/
def Pass.value (p : Pass) (ts : List Token) : Except AsmError Value :=
  match parseExpr ts with
  | none => .error .badExpression
  | some e => p.evaluate e

/-- The value of an operand that is a constant, a label or '.' (R182, R188). -/
def Pass.plainValue (p : Pass) (ts : List Token) : Except AsmError Value :=
  match parseExpr ts with
  | none => .error .badExpression
  | some e => if e.plain then p.evaluate e else .error .badOperands

/-- One more name. -/
def Pass.define (p : Pass) (cs : List Char) (v : Value) (exported equate : Bool) : Except AsmError Pass :=
  let scope := if isReusable cs then some p.scope else none
  if labelOk cs then
    if p.names.any fun d => d.name == cs && d.scope == scope && d.file == p.file then .error .duplicateName
    else .ok { p with names := ⟨p.file, scope, cs, v, exported, equate⟩ :: p.names }
  else .error .badLabel

/-- A label: its value is the current counter; a local or global one begins a new stretch for re-usable ones. -/
def Pass.label (p : Pass) (cs : List Char) (exported : Bool) : Except AsmError Pass :=
  let q := if isReusable cs then p else { p with scope := p.scope + 1 }
  (q.moveTo p.area.counter).define cs (BitVec.ofNat 32 p.area.counter) exported false

/-! Placing contents. -/

/-- Bytes that contents take. -/
def Content.size : Content → Nat
  | .code row _ _ => row.length
  | .bytes vs => vs.length
  | .words _ vs => 2 * vs.length
  | .text bs => bs.length
  | .space n => n

/-- Contents placed at the current counter. -/
def Pass.put (p : Pass) (c : Content) : Pass :=
  { p.moveTo (p.area.counter + c.size) with
    items := ⟨p.file, p.scope, p.line, p.area.name, p.area.counter, c⟩ :: p.items }

/-- Contents placed in a ROM area. -/
def Pass.place (p : Pass) (c : Content) : Except AsmError Pass :=
  if p.area.ram then .error .wrongArea else .ok (p.put c)

/-- An instruction (30_encoding.md R162, R168). -/
def Pass.instruction (p : Pass) (w : List Char) (ts : List Token) : Except AsmError Pass :=
  match parseOperands ts with
  | none => .error .badOperands
  | some os =>
    match selectRow w (os.map Operand.shape) with
    | none => .error .badOperands
    | some r => p.place (.code r.row (os.filterMap Operand.expr) (relBase w))

/-- Data from expressions between commas: `DB`, `DW`, `DWL` (30_encoding.md R176, R180, R181). -/
def Pass.data (p : Pass) (mk : List Expr → Content) (ts : List Token) : Except AsmError Pass :=
  match allSome parseExpr (splitCommas ts) with
  | none => .error .badExpression
  | some es => p.place (mk es)

/-- Data from a string: `DS`, `ASCIZ`, `DSU` (30_encoding.md R173, R177, R179). -/
def Pass.string (p : Pass) (bytes : List Nat → List Byte) (ts : List Token) : Except AsmError Pass :=
  match ts with
  | [.str body] => p.place (.text (bytes (unescape body)))
  | _ => .error .badOperands

/-- The bytes of a string. -/
def stringBytes (codes : List Nat) : List Byte := codes.map fun n => BitVec.ofNat 8 n

/-- Unicode values, low byte first (30_encoding.md R179). -/
def unicodeBytes (codes : List Nat) : List Byte :=
  codes.flatMap fun n => [BitVec.ofNat 8 n, BitVec.ofNat 8 (n / 256)]

/-- RAM reserved: `BLK`, and `BLKW` with units of 2 (30_encoding.md R174, R175). DESIGN CHOICE: any RAM area will do;
"PSoC Designer requires that the bss area be used for RAM variables" (R171), but no error is given for another
(notes/assumptions/35.md). -/
def Pass.reserve (p : Pass) (size : Nat) (ts : List Token) : Except AsmError Pass :=
  if p.area.ram then (p.value ts).map fun v => p.put (.space (size * v.toNat)) else .error .wrongArea

/-- `ORG`: "operand an integer constant, a label or `.`" (30_encoding.md R188). -/
def Pass.org (p : Pass) (ts : List Token) : Except AsmError Pass :=
  if p.area.absolute then (p.plainValue ts).map fun v => p.moveTo v.toNat else .error .orgInRelocatable

/-- What an `AREA` line says. -/
structure AreaLine where
  name : List Char
  /-- `RAM` or `ROM`, where it says which. -/
  ram : Option Bool
  absolute : Bool
  overlaid : Bool
  deriving DecidableEq, Repr

/-- The attributes of `AREA`, applied to the defaults `ABS` and `CON` (30_encoding.md R171). DESIGN CHOICE: they may stand
in any order, and of two that contradict each other the later one counts (R171 prints one form and no error;
notes/assumptions/35.md). -/
def areaAttributes (a : AreaLine) : List (List Token) → Option AreaLine
  | [] => some a
  | [.word w] :: rest =>
    let u := upperWord w
    if u = "RAM".toList then areaAttributes { a with ram := some true } rest
    else if u = "ROM".toList then areaAttributes { a with ram := some false } rest
    else if u = "ABS".toList then areaAttributes { a with absolute := true } rest
    else if u = "REL".toList then areaAttributes { a with absolute := false } rest
    else if u = "CON".toList then areaAttributes { a with overlaid := false } rest
    else if u = "OVR".toList then areaAttributes { a with overlaid := true } rest
    else none
  | _ :: _ => none

/-- What the tokens of an `AREA` line say. -/
def parseArea (ts : List Token) : Option AreaLine :=
  match ts with
  | .word w :: rest =>
    match rest with
    | [] => some ⟨w, none, true, false⟩
    | .sym '(' :: more =>
      match more.reverse with
      | .sym ')' :: inner => areaAttributes ⟨w, none, true, false⟩ (splitCommas inner.reverse)
      | _ => none
    | _ => none
  | _ => none

/-- An area that goes on where it stopped (`CON`) or begins again (`OVR`). -/
def Pass.goOn (p : Pass) (b : Area) : Pass :=
  { p with areas := { b with counter := if b.overlaid then b.base else b.counter } ::
      p.areas.filter fun c => c.name != b.name }

/-- A new area: at 0 or, when relocatable, where the linker puts it; RAM for "bss" and ROM otherwise where the line does
not say (30_encoding.md R171, R172; notes/assumptions/35.md). -/
def Pass.newArea (p : Pass) (placement : List (String × Nat)) (w : AreaLine) : Except AsmError Pass :=
  let placedAt (base : Nat) : Pass :=
    { p with areas := ⟨w.name, w.ram.getD (w.name == ['b', 's', 's']), w.absolute, w.overlaid, base, base, true⟩ ::
        p.areas.filter fun c => c.name != w.name }
  if w.absolute then .ok (placedAt 0)
  else match placement.find? fun c => c.1.toList == w.name with
    | some c => .ok (placedAt c.2)
    | none => .error .areaNotPlaced

/-- `AREA`: "All areas with the same name must have the same attributes" (30_encoding.md R171). -/
def Pass.enterArea (p : Pass) (placement : List (String × Nat)) (ts : List Token) : Except AsmError Pass :=
  match parseArea ts with
  | none => .error .badOperands
  | some w =>
    match p.areas.find? fun b => b.name == w.name with
    | some b =>
      if !b.settled then p.newArea placement w
      else if w.ram.getD b.ram == b.ram && w.absolute == b.absolute && w.overlaid == b.overlaid then .ok (p.goOn b)
      else .error .areaMismatch
    | none => p.newArea placement w

/-- The name that a part of an `EXPORT` line gives. DESIGN CHOICE: the line may have several labels between commas, and a
label that the file never defines is no error (R183 is silent; notes/assumptions/36.md). -/
def exportedName : List Token → Option (List Char)
  | [.word w] => some w
  | _ => none

/-! Macros (30_encoding.md R187). -/

/-- A body line with each `@digit` replaced by the corresponding argument, wherever in the line it stands.
DESIGN CHOICE: @0 is the first argument, and a digit for which the use gives no argument is replaced by nothing (R187 is
silent; notes/assumptions/36.md). -/
def substitute (args : List (List Char)) : List Char → List Char
  | [] => []
  | [c] => [c]
  | c :: d :: cs =>
    if c = '@' && between '0' '9' d then args.getD (d.toNat - 48) [] ++ substitute args cs
    else c :: substitute args (d :: cs)

/-- The word a line begins with, as a directive. -/
def leadingDirective : List Token → Option Directive
  | .word w :: _ => directive? w
  | _ => none

/-- A line's label, `name:` or `name::` for a global one. -/
structure LabelPart where
  name : List Char
  exported : Bool
  deriving DecidableEq, Repr

/-- A line's label and what follows it (30_encoding.md R160). -/
def splitLabel : List Token → Option LabelPart × List Token
  | .word cs :: .sym ':' :: .sym ':' :: rest => (some ⟨cs, true⟩, rest)
  | .word cs :: .sym ':' :: rest => (some ⟨cs, false⟩, rest)
  | ts => (none, ts)

/-- The text of a label. -/
def LabelPart.text (l : LabelPart) : List Char := l.name ++ (if l.exported then [':', ':'] else [':'])

/-- A line while a macro is being defined; a label before `ENDM` is the body's last line. -/
def Pass.collect (p : Pass) (name : List Char) (body : List (List Char)) (line : List Char) (ts : List Token) :
    Except AsmError Pass :=
  match leadingDirective (splitLabel ts).2 with
  | some .dEndm =>
    .ok { p with
      defining := none,
      macros := (name, body.reverse ++ ((splitLabel ts).1.map LabelPart.text).toList) :: p.macros }
  | some .dMacro => .error .badMacro
  | _ => .ok { p with defining := some (name, line :: body) }

/-- `MACRO`: "the name may not be a mnemonic or directive". DESIGN CHOICE: the arguments on the line are ignored, since
the body names them by `@digit`, and a later macro of the same name replaces the earlier one (R187 is silent;
notes/assumptions/36.md). -/
def Pass.beginMacro (p : Pass) (ts : List Token) : Except AsmError Pass :=
  match ts with
  | .word w :: _ =>
    if isMnemonic w || (directive? w).isSome then .error .badMacro else .ok { p with defining := some (w, []) }
  | _ => .error .badMacro

/-! Lines (30_encoding.md R160, R184). -/

/-- `IF`: a value of 0 is false. -/
def Pass.beginIf (p : Pass) (ts : List Token) : Except AsmError Pass :=
  if p.active then
    (p.value ts).map fun v : Value => { p with conditions := ⟨decide (v ≠ 0#32), decide (v = 0#32)⟩ :: p.conditions }
  else .ok { p with conditions := ⟨false, false⟩ :: p.conditions }

/-- `ELSE`. DESIGN CHOICE: the lines after a second `ELSE` of one `IF` are not assembled, without an error, and text after
`ELSE` or `ENDIF` is ignored (R184 is silent; notes/assumptions/36.md). -/
def Pass.elseBranch (p : Pass) : Except AsmError Pass :=
  match p.conditions with
  | [] => .error .badCondition
  | c :: cs => .ok { p with conditions := ⟨c.otherwise, false⟩ :: cs }

/-- `ENDIF`. -/
def Pass.endIf (p : Pass) : Except AsmError Pass :=
  match p.conditions with
  | [] => .error .badCondition
  | _ :: cs => .ok { p with conditions := cs }

/-- The lines of an included file, by its name as it is quoted (R185). -/
def includedLines (files : List SourceFile) (name : List Char) : Except AsmError (List (List Char)) :=
  match files.find? fun f => f.name.toList == name with
  | some f => sourceLines f.lines
  | none => .error .noSuchFile

/-- A directive: the new state and the lines it puts in its place. DESIGN CHOICE: `.LITERAL`, `.ENDLITERAL`, `.SECTION` and
`.ENDSECTION` without their partner, or nested, are no error (R186, R189 are silent; notes/assumptions/36.md). -/
def Pass.directive (prj : Project) (p : Pass) (d : Directive) (ts : List Token) :
    Except AsmError (Pass × List (List Char)) :=
  let stay (r : Except AsmError Pass) : Except AsmError (Pass × List (List Char)) := r.map fun q => (q, [])
  match d with
  | .dArea => stay (p.enterArea prj.placement ts)
  | .dAsciz => stay (p.string (fun codes => stringBytes codes ++ [0x00#8]) ts)
  | .dBlk => stay (p.reserve 1 ts)
  | .dBlkw => stay (p.reserve 2 ts)
  | .dDb => stay (p.data .bytes ts)
  | .dDs => stay (p.string stringBytes ts)
  | .dDsu => stay (p.string unicodeBytes ts)
  | .dDw => stay (p.data (.words false) ts)
  | .dDwl => stay (p.data (.words true) ts)
  | .dElse => stay p.elseBranch
  | .dEndif => stay p.endIf
  | .dEndm => .error .badMacro
  | .dEqu => .error .badLabel
  | .dExport =>
    match allSome exportedName (splitCommas ts) with
    | some ns => .ok ({ p with exports := (ns.map fun n => (p.file, n)) ++ p.exports }, [])
    | none => .error .badOperands
  | .dIf => stay (p.beginIf ts)
  | .dInclude =>
    match ts with
    | [.str name] => (includedLines prj.includes name).map fun ls => (p, ls)
    | _ => .error .badOperands
  | .dLiteral => .ok (p, [])
  | .dEndLiteral => .ok (p, [])
  | .dMacro => stay (p.beginMacro ts)
  | .dOrg => stay (p.org ts)
  | .dSection => .ok (p, [])
  | .dEndSection => .ok (p, [])

/-- What follows a line's label: nothing, a directive, an instruction or a macro's use, whose arguments stand between
commas. -/
def Pass.statement (prj : Project) (p : Pass) (ts : List Token) : Except AsmError (Pass × List (List Char)) :=
  match ts with
  | [] => .ok (p, [])
  | .word w :: rest =>
    match directive? w with
    | some d => p.directive prj d rest
    | none =>
      if isMnemonic w then (p.instruction w rest).map fun q => (q, [])
      else match p.macros.find? fun m => m.1 == w with
        | some m => .ok (p, m.2.map (substitute ((splitCommas rest).map tokensText)))
        | none => .error .unknownMnemonic
  | _ => .error .unknownMnemonic

/-- A label and what follows it: `EQU` gives it a value, "a constant or label or '.'" (R182); any other statement the
current address. -/
def Pass.labelled (prj : Project) (p : Pass) (l : LabelPart) (ts : List Token) :
    Except AsmError (Pass × List (List Char)) :=
  if leadingDirective ts = some .dEqu then
    if l.exported then .error .exportedEquate
    else match p.plainValue ts.tail with
      | .error e => .error e
      | .ok v => (p.define l.name v false true).map fun q => (q, [])
  else match p.label l.name l.exported with
    | .error e => .error e
    | .ok q => q.statement prj ts

/-- A label of a line that is otherwise done: defined where lines are being assembled. -/
def Pass.labelIfActive (p : Pass) (l : Option LabelPart) : Except AsmError Pass :=
  match l with
  | none => .ok p
  | some l => if p.active then p.label l.name l.exported else .ok p

/-- A line that is not assembled: only the nesting of `IF` is followed. The label of an `ELSE` or `ENDIF` that ends the
skipping is a label of the lines around it. -/
def Pass.skipped (p : Pass) (ts : List Token) : Except AsmError Pass :=
  let after (r : Except AsmError Pass) : Except AsmError Pass :=
    match r with
    | .error e => .error e
    | .ok q => q.labelIfActive (splitLabel ts).1
  match leadingDirective (splitLabel ts).2 with
  | some .dIf => p.beginIf []
  | some .dElse => after p.elseBranch
  | some .dEndif => after p.endIf
  | _ => .ok p

/-- One line: the new state and the lines put in its place. A line that is only collected or skipped need not be one that
has tokens. -/
def Pass.lineText (prj : Project) (p : Pass) (cs : List Char) : Except AsmError (Pass × List (List Char)) :=
  let stay (r : Except AsmError Pass) : Except AsmError (Pass × List (List Char)) := r.map fun q => (q, [])
  let loose : List Token := match lexLine cs with
    | .ok ts => ts
    | .error _ => []
  match p.defining with
  | some (name, body) => stay (p.collect name body cs loose)
  | none =>
    if p.active then
      match lexLine cs with
      | .error e => .error e
      | .ok ts =>
        match splitLabel ts with
        | (some l, rest) => p.labelled prj l rest
        | (none, rest) => p.statement prj rest
    else stay (p.skipped loose)

/-- Lines, those that inclusions and macros put in among them; the number bounds them. -/
def Pass.expand (prj : Project) : Nat → Pass → List (List Char) → Except AsmError Pass
  | _, p, [] => .ok p
  | 0, _, _ :: _ => .error .tooManyLines
  | n + 1, p, l :: ls =>
    match p.lineText prj l with
    | .error e => .error e
    | .ok (q, more) => Pass.expand prj n q (more ++ ls)

/-- The lines of a source file, from line `n` on. -/
def Pass.lines (prj : Project) (bound n : Nat) : Pass → List (List Char) → Except AsmError Pass
  | p, [] => .ok p
  | p, l :: ls =>
    match Pass.expand prj bound { p with line := n } [l] with
    | .error e => .error e
    | .ok q => Pass.lines prj bound (n + 1) { q with passed := ⟨q.file, n, l, q.area.counter⟩ :: q.passed } ls

/-- The beginning of a source file, in the default area "text" (R172). DESIGN CHOICE: it knows no macro of an earlier
file (R187 is silent; notes/assumptions/36.md). -/
def Pass.beginFile (p : Pass) (file : Nat) : Pass :=
  { p.goOn ((p.areas.find? fun a => a.name == textArea.name).getD textArea) with
    file := file, scope := p.scope + 1, macros := [] }

/-- The source files in order, from number `file` on; each closes its `IF`s and its macros. -/
def Pass.files (prj : Project) (bound : Nat) (file : Nat) : Pass → List SourceFile → Except AsmError Pass
  | p, [] => .ok p
  | p, f :: fs =>
    match sourceLines f.lines with
    | .error e => .error e
    | .ok ls =>
      match Pass.lines prj bound 1 (p.beginFile file) ls with
      | .error e => .error e
      | .ok q =>
        if q.conditions != [] then .error .badCondition
        else match q.defining with
          | some _ => .error .badMacro
          | none => Pass.files prj bound (file + 1) q fs

/-! The second pass. -/

/-- The displacement to a target from the instruction at an address (30_encoding.md R169). -/
def displacement (addr relative : Nat) (target : Value) : Except AsmError Disp :=
  let k : Int := target.toNat - (addr + relative)
  if relOperandOk k then .ok (BitVec.ofInt 12 k) else .error .branchOutOfRange

/-- The instruction of a format with its operands' values, each cut to its field (30_encoding.md R165, R169). -/
def rowInstr (row : Row) (addr relative : Nat) (vs : List Value) : Except AsmError Instr :=
  match row, vs with
  | .f1 i, [] => .ok i
  | .f2 mk, [v] => .ok (mk (v.setWidth 8))
  | .f3 mk, [v1, v2] => .ok (mk (v1.setWidth 8) (v2.setWidth 8))
  | .f3l mk, [v] => .ok (mk (v.setWidth 16))
  | .f2r mk, [v] => (displacement addr relative v).map mk
  | _, _ => .error .badOperands

/-- The values of expressions. -/
def evalAll (lookup : List Char → Option Symbol) (here : Value) : List Expr → Except AsmError (List Value)
  | [] => .ok []
  | e :: es =>
    match e.eval lookup here with
    | .error err => .error err
    | .ok v => (evalAll lookup here es).map (v.value :: ·)

/-- The two bytes of a word: upper first, or lower first when `little` (30_encoding.md R180, R181). -/
def wordBytes (little : Bool) (v : Value) : List Byte :=
  if little then [v.extractLsb' 0 8, v.extractLsb' 8 8] else [v.extractLsb' 8 8, v.extractLsb' 0 8]

/-- The bytes of contents at an address. DESIGN CHOICE: in data the dot is the address of the line's first byte, for every
value of the list (R166 defines it for an instruction; notes/assumptions/36.md). -/
def Content.emit (lookup : List Char → Option Symbol) (addr : Nat) : Content → Except AsmError (List Byte)
  | .code row es relative =>
    match evalAll lookup (BitVec.ofNat 32 addr) es with
    | .error e => .error e
    | .ok vs => (rowInstr row addr relative vs).map encode
  | .bytes es => (evalAll lookup (BitVec.ofNat 32 addr) es).map fun vs => vs.map fun v => v.setWidth 8
  | .words little es => (evalAll lookup (BitVec.ofNat 32 addr) es).map fun vs => vs.flatMap (wordBytes little)
  | .text bs => .ok bs
  | .space _ => .ok []

/-- An instruction, as opposed to data. -/
def Content.isCode : Content → Bool
  | .code _ _ _ => true
  | .bytes _ => false
  | .words _ _ => false
  | .text _ => false
  | .space _ => false

/-- Bytes emitted for a line of a source file. -/
structure Emission where
  file : Nat
  line : Nat
  addr : Nat
  /-- They are an instruction. -/
  code : Bool
  bytes : List Byte
  deriving DecidableEq, Repr

/-- What items emit. DESIGN CHOICE: only bytes placed in the ROM are held to its 16-bit address space (10_state.md R45); how
far the addresses of a RAM area reach is not checked (R174 is silent; notes/assumptions/35.md). -/
def emitAll (p : Pass) : List Item → Except AsmError (List Emission)
  | [] => .ok []
  | i :: is =>
    match i.content.emit (lookupName p.names p.exports i.file i.scope) i.addr with
    | .error e => .error e
    | .ok bs =>
      if bs != [] && decide (65536 < i.addr + bs.length) then .error .addressTooLarge
      else (emitAll p is).map (⟨i.file, i.line, i.addr, i.content.isCode, bs⟩ :: ·)

/-- Emissions, oldest first, put into a ROM image; an overlap is not flagged (30_encoding.md R188). DESIGN CHOICE: where
two overlap, the one assembled later stays (notes/assumptions/36.md). -/
def romOf (es : List Emission) : List Host.Cell :=
  Machine.Memory.putAll none [] (es.flatMap fun e => Machine.Memory.cellsFrom e.addr e.bytes)

/-- An equate has been exported. DESIGN CHOICE: the project is then not assembled; R182 says only that equates must not be
exported, and 93_implementation_defined.md U15 leaves open what comes of it (notes/assumptions/36.md). -/
def exportsEquate (p : Pass) : Bool := p.names.any fun d => d.equate && p.exports.contains (d.file, d.name)

/-- The global names (R183). -/
def Pass.globals (p : Pass) : List Definition := p.names.filter (isGlobal p.exports)

/-- No two of the definitions have one name: a global name is defined in one file only. -/
def namesDistinct : List Definition → Bool
  | [] => true
  | d :: ds => !(ds.any fun e => e.name == d.name) && namesDistinct ds

/-! The map file (30_encoding.md R193). -/

/-- Where an area was placed: its attributes and the stretches of addresses it takes, each with its length. -/
structure AreaMap where
  name : List Char
  ram : Bool
  absolute : Bool
  overlaid : Bool
  extents : List (Nat × Nat)
  deriving DecidableEq, Repr

/-- The map file's contents: "where the assembler has placed areas" and "the values of global labels". "No format is
printed" (R193; notes/assumptions/37.md). -/
structure ProjectMap where
  areas : List AreaMap
  globals : List (List Char × Value)
  deriving DecidableEq, Repr

/-- A stretch after others, the last of them first: joined to it where it begins at its end. -/
def addExtent (addr size : Nat) : List (Nat × Nat) → List (Nat × Nat)
  | [] => if size = 0 then [] else [(addr, size)]
  | (a, n) :: es =>
    if size = 0 then (a, n) :: es
    else if a + n = addr then (a, n + size) :: es
    else (addr, size) :: (a, n) :: es

/-- The stretches that items of an area take, the items newest first. -/
def extentsOf (area : List Char) : List Item → List (Nat × Nat)
  | [] => []
  | i :: is => if i.area == area then addExtent i.addr i.content.size (extentsOf area is) else extentsOf area is

/-- The map of a project after its first pass. -/
def Pass.map (p : Pass) : ProjectMap :=
  ⟨p.areas.reverse.map fun a => ⟨a.name, a.ram, a.absolute, a.overlaid, (extentsOf a.name p.items).reverse⟩,
   p.globals.reverse.map fun d => (d.name, d.value)⟩

/-- What a project is assembled to. -/
structure Assembly where
  /-- The ROM image. -/
  rom : List Host.Cell
  map : ProjectMap
  /-- The source lines of all files, in order. -/
  lines : List PassedLine
  emissions : List Emission
  deriving DecidableEq, Repr

/-- A project assembled; no source line expands to more than `bound` lines. -/
def assembleAll (bound : Nat) (prj : Project) : Except AsmError Assembly :=
  match Pass.files prj bound 0 Pass.start prj.sources with
  | .error e => .error e
  | .ok p =>
    if exportsEquate p then .error .exportedEquate
    else if namesDistinct p.globals then
      (emitAll p p.items.reverse).map fun es => ⟨romOf es, p.map, p.passed.reverse, es⟩
    else .error .duplicateName

/-- The ROM image of a project. -/
def assemble (bound : Nat) (prj : Project) : Except AsmError (List Host.Cell) :=
  (assembleAll bound prj).map Assembly.rom

/-- The project of one source text. -/
def oneFile (lines : List String) : Project := ⟨[⟨"main.asm", lines⟩], [], []⟩

/-- The ROM image of one source text. -/
def assembleText (lines : List String) : Except AsmError (List Host.Cell) := assemble 65536 (oneFile lines)

/-! The listing file (30_encoding.md R192). -/

/-- Upper-case hexadecimal digits of a number, `n` of them. -/
def hexDigits : Nat → Nat → List Char
  | 0, _ => []
  | n + 1, v => hexDigits n (v / 16) ++ [Nat.digitChar (v % 16)].map upperChar

/-- An operand as the listing prints it, its constant in decimal. -/
def printOperand (v : List Char) : Shape → List Char
  | .a => ['A']
  | .x => ['X']
  | .f => ['F']
  | .sp => ['S', 'P']
  | .imm => v
  | .dir => ['['] ++ v ++ [']']
  | .idx => ['[', 'X', '+'] ++ v ++ [']']
  | .reg => ['R', 'E', 'G', '['] ++ v ++ [']']
  | .regIdx => ['R', 'E', 'G', '[', 'X', '+'] ++ v ++ [']']
  | .ind => ['[', '['] ++ v ++ [']', '+', '+', ']']

/-- The operands, a comma between them; each form with an expression takes the next constant. -/
def printOperands : List Shape → List Nat → List Char
  | [], _ => []
  | sh :: shs, vs =>
    let named := sh == .a || sh == .x || sh == .f || sh == .sp
    let this := printOperand (if named then [] else Nat.toDigits 10 (vs.headD 0)) sh
    let rest := if named then vs else vs.tail
    if shs = [] then this else this ++ [','] ++ printOperands shs rest

/-- The constants of an instruction's operands: its operand bytes, its 16-bit target, or the target of its displacement
(30_encoding.md R169; notes/assumptions/37.md). -/
def listedConstants (addr : Word) (r : SyntaxRow) : List Byte → List Nat
  | [b0, b1] =>
    match r.row with
    | .f2r _ =>
      [(addr + BitVec.ofNat 16 (relBase r.mnemonic.toList) + (relOperand b0 b1).signExtend 16).toNat]
    | _ => [b1.toNat]
  | [_, b1, b2] =>
    match r.row with
    | .f3l _ => [(b1 ++ b2).toNat]
    | _ => [b1.toNat, b2.toNat]
  | _ => []

/-- The format of the instruction that byte 0 begins. -/
def syntaxRowOf (b0 : Byte) : Option SyntaxRow :=
  if b0.toNat < 128 then syntaxTable[b0.toNat]? else syntaxTable[128 + (b0.toNat / 16 - 8)]?

/-- Bytes in hexadecimal, a space between them. -/
def spacedHex : List Byte → List Char
  | [] => []
  | [b] => hexDigits 2 b.toNat
  | b :: bs => hexDigits 2 b.toNat ++ [' '] ++ spacedHex bs

/-- A code line, `aaaa: bb bb  MNEMONIC operands`. -/
def listCode (addr : Word) (bs : List Byte) : Option (List Char) :=
  match bs with
  | [] => none
  | b0 :: _ =>
    (syntaxRowOf b0).map fun r =>
      let operands := printOperands r.shapes (listedConstants addr r bs)
      hexDigits 4 addr.toNat ++ [':', ' '] ++ spacedHex bs ++ [' ', ' '] ++ r.mnemonic.toList ++
        (if operands = [] then [] else ' ' :: operands)

/-- A source line with its number, `(nnnn) text`. DESIGN CHOICE: a number above 9999 has all its digits (R192 gives four;
notes/assumptions/37.md). -/
def listSource (n : Nat) (text : List Char) : List Char :=
  let d := Nat.toDigits 10 n
  ['('] ++ List.replicate (4 - d.length) '0' ++ d ++ [')', ' '] ++ text

/-- The bytes an emission places, in the first layout: a code line for an instruction, address and bytes for data. -/
def listEmission (e : Emission) : List Char :=
  let plain := hexDigits 4 e.addr ++ [':', ' '] ++ spacedHex e.bytes
  if e.code then (listCode (BitVec.ofNat 16 e.addr) e.bytes).getD plain else plain

/-- The emissions of a source line, those with bytes. -/
def Assembly.emitted (m : Assembly) (l : PassedLine) : List Emission :=
  m.emissions.filter fun e => e.file == l.file && e.line == l.line && e.bytes != []

/-- The lines of a file of the project. -/
def Assembly.linesOf (m : Assembly) (file : Nat) : List PassedLine := m.lines.filter fun l => l.file == file

/-- The listing of a source file: each source line and after it the code lines it became (30_encoding.md R192).
DESIGN CHOICE: one listing for each source file, in no order; the rule names one file for the project
(notes/assumptions/37.md). -/
def Assembly.listing (m : Assembly) (file : Nat) : List (List Char) :=
  (m.linesOf file).flatMap fun l => listSource l.line l.text :: (m.emitted l).map listEmission

/-- The cycle count in brackets, two digits, of the instruction that bytes are. -/
def bracketedCycles (bs : List Byte) : List Char :=
  match decode bs with
  | .instr i _ =>
    let d := Nat.toDigits 10 (Machine.instrCycles i)
    ['['] ++ List.replicate (2 - d.length) '0' ++ d ++ [']']
  | .truncated => []
  | .unassigned => []

/-- The bytes an emission places, in the second layout, `aaaa bb bb [cc]`; data has no count. -/
def listCycles (e : Emission) : List Char :=
  hexDigits 4 e.addr ++ [' '] ++ spacedHex e.bytes ++ (if e.code then ' ' :: bracketedCycles e.bytes else [])

/-- A source line in the second layout, `aaaa bb bb [cc] source`: the source text after the first of its emissions, the
others on lines of their own; the counter alone where it has none. -/
def listWithCycles (l : PassedLine) : List Emission → List (List Char)
  | [] => [hexDigits 4 l.counter ++ [' '] ++ l.text]
  | e :: es => (listCycles e ++ [' '] ++ l.text) :: es.map listCycles

/-- The second layout of a source file's listing, that of the source's own section 4 (30_encoding.md R192). -/
def Assembly.cycleListing (m : Assembly) (file : Nat) : List (List Char) :=
  (m.linesOf file).flatMap fun l => listWithCycles l (m.emitted l)

end Sys2Proof.Asm
end

