-- ==== Sys2Proof/Machine/Reset.lean ====
section
/-! DEFINITION. The three hardware resets (70_reset_and_hazards.md R490, R491). A reset is no step of a run; it is the only way out of the halted state. -/

namespace Sys2Proof.Machine

/-- The reset sources (70_reset_and_hazards.md R490). -/
inductive ResetKind where
  /-- Power-On-Reset. -/
  | por
  /-- Watchdog Timer Reset. -/
  | wdr
  /-- External reset. -/
  | xres
  deriving DecidableEq, Repr

/-- "Watchdog reset will not cause the Watchdog Timer to be disabled while all other resets will disable the Watchdog
Timer" (70_reset_and_hazards.md R490). -/
def wdtAfter (k : ResetKind) (wdt : Bool) : Bool :=
  match k with
  | .por => false
  | .wdr => wdt
  | .xres => false

/-- The state a hardware reset leaves (10_state.md R50): the core's registers at their reset values, not halted; every RAM
byte unspecified again; the register space at the profile's power-on state; the ROM unchanged; the watchdog by the kind of
reset. What the interrupt controller will report and what the devices have seen lie outside the core and stay. -/
def State.hardReset (k : ResetKind) (s : State) : State :=
  { s with
    a := 0x00#8, x := 0x00#8, sp := 0x00#8, f := 0x02#8, pc := 0x0000#16, halted := false,
    ram := [], regs := Memory.putAll (some 0x00#8) [] s.profile.regPowerOn,
    wdt := wdtAfter k s.wdt, spare := 0x00#8, epoch := s.epoch + 1 }

/-- The machine right after a reset on a device of the given parameters with a program loaded
(70_reset_and_hazards.md R491, R498). The parameter `IrqPending` (00_scope.md R4) is the list of what the interrupt
controller will report at the coming boundaries (60_exceptions.md R443; notes/assumptions/4.md). -/
def State.boot (p : Profile) (rom : List Host.Cell) (irqs : List (Option Nat)) : State :=
  { State.reset with
    profile := p, rom := rom, irqs := irqs, regs := Memory.putAll (some 0x00#8) [] p.regPowerOn }

end Sys2Proof.Machine
end

