-- ==== Sys2Proof/Machine/Image.lean ====
section
/-! DEFINITION. How a program reaches the Flash and what a run answers: the ROM file (70_reset_and_hazards.md R496), the Intel HEX file (R497), the run from reset to `halted` (R498, 92_eei_decisions.md D21). -/

namespace Sys2Proof.Machine

/-! Hexadecimal text. -/

/-- The byte that two hexadecimal digits write, either case. -/
def hexByte? (c d : Char) : Option Byte :=
  match Asm.digit? 16 c, Asm.digit? 16 d with
  | some h, some l => some (BitVec.ofNat 8 (h * 16 + l))
  | _, _ => none

/-- The bytes that pairs of hexadecimal digits write. -/
def hexBytes? : List Char → Option (List Byte)
  | [] => some []
  | [_] => none
  | c :: d :: cs =>
    match hexByte? c d, hexBytes? cs with
    | some b, some bs => some (b :: bs)
    | _, _ => none

/-- A byte as two hexadecimal digits, lower case, as the printed records of R497 have them. -/
def hexText (b : Byte) : List Char := [Nat.digitChar (b.toNat / 16), Nat.digitChar (b.toNat % 16)]

/-- The text between separators. -/
def splitAtChar (sep : Char) : List Char → List (List Char)
  | [] => [[]]
  | c :: cs =>
    match splitAtChar sep cs with
    | w :: ws => if c = sep then [] :: w :: ws else (c :: w) :: ws
    | [] => [[c]]

/-! The ROM file (70_reset_and_hazards.md R496). -/

/-- The bytes of one line: two-digit columns, spaces between them. -/
def romWords : List (List Char) → Option (List Byte)
  | [] => some []
  | [] :: ws => romWords ws
  | [c, d] :: ws =>
    match hexByte? c d, romWords ws with
    | some b, some bs => some (b :: bs)
    | _, _ => none
  | _ :: _ => none

/-- The bytes of the lines: "eight columns of data", the last line possibly shorter. DESIGN CHOICE: any number of lines
without data may stand after the last line with data, and none before it (R496 is silent; notes/assumptions/31.md). -/
def romLines : List (List Char) → Option (List Byte)
  | [] => some []
  | [l] =>
    match romWords (splitAtChar ' ' l) with
    | some bs => if bs.length ≤ 8 then some bs else none
    | none => none
  | l :: ls =>
    match romWords (splitAtChar ' ' l), romLines ls with
    | some bs, some rest => if bs.length = 8 || (rest = [] && bs.length ≤ 8) then some (bs ++ rest) else none
    | _, _ => none

/-- The bytes of a ROM file. DESIGN CHOICE: a line ends with a line feed, and a carriage return counts for nothing, as in
`loadHexFile` (R496 is silent; notes/assumptions/31.md). -/
def romFile (text : List Char) : Option (List Byte) := romLines (splitAtChar '\n' (text.filter fun c => c != '\r'))

/-- The loader: "ROM[i] = the i-th byte of the file, for i from 0; every other ROM address unassigned". A file of more
bytes than there are ROM addresses is not loaded. -/
def loadBytes (bs : List Byte) : Option (List Host.Cell) :=
  if bs.length ≤ 65536 then some (Memory.cellsFrom 0 bs) else none

/-! The Intel HEX file (70_reset_and_hazards.md R497). -/

/-- The record types. -/
inductive HexKind where
  /-- "00" data. -/
  | data
  /-- "01" end of file. -/
  | endOfFile
  /-- "02" extended segment address. -/
  | extendedSegment
  /-- "03" start segment address. -/
  | startSegment
  /-- "04" extended linear address. -/
  | extendedLinear
  /-- "05" start linear address. -/
  | startLinear
  deriving DecidableEq, Repr

/-- The type byte of a kind. -/
def HexKind.code : HexKind → Byte
  | .data => 0x00#8
  | .endOfFile => 0x01#8
  | .extendedSegment => 0x02#8
  | .startSegment => 0x03#8
  | .extendedLinear => 0x04#8
  | .startLinear => 0x05#8

/-- The kind of a type byte. -/
def hexKind? (b : Byte) : Option HexKind :=
  [HexKind.data, .endOfFile, .extendedSegment, .startSegment, .extendedLinear, .startLinear].find?
    fun k => k.code == b

/-- A record; its length and its checksum follow from the rest. -/
structure HexRecord where
  addr : Word
  kind : HexKind
  data : List Byte
  deriving DecidableEq, Repr

/-- The sum of bytes modulo 256. -/
def byteSum (bs : List Byte) : Byte := bs.foldr (· + ·) 0x00#8

/-- The bytes of a record before its checksum: length, address, type, data. -/
def HexRecord.body (r : HexRecord) : List Byte :=
  BitVec.ofNat 8 r.data.length :: r.addr.extractLsb' 8 8 :: r.addr.extractLsb' 0 8 :: r.kind.code :: r.data

/-- The checksum: "the two's complement of the low byte of the sum of all preceding bytes". -/
def checksum (bs : List Byte) : Byte := -byteSum bs

/-- A record as it is written: ":" and each byte as two hexadecimal characters. -/
def HexRecord.text (r : HexRecord) : List Char := ':' :: (r.body ++ [checksum r.body]).flatMap hexText

/-- The record of its bytes: the length field counts the data bytes, and the checksum is right. DESIGN CHOICE: bytes of which
one of these fails, or whose type is none of the six listed, are no record (R497 is silent on what a reader does;
notes/assumptions/31.md). -/
def hexRecordOf : List Byte → Option HexRecord
  | len :: hi :: lo :: ty :: rest =>
    if rest.length = len.toNat + 1 ∧ byteSum (len :: hi :: lo :: ty :: rest) = 0x00#8 then
      (hexKind? ty).map fun k => ⟨hi ++ lo, k, rest.take len.toNat⟩
    else none
  | _ => none

/-- The record that a line writes. -/
def parseRecord : List Char → Option HexRecord
  | ':' :: cs =>
    match hexBytes? cs with
    | some bs => hexRecordOf bs
    | none => none
  | _ => none

/-- The records of a file's lines, empty ones dropped, up to and with the end-of-file record. DESIGN CHOICE: the lines after
it are not read, whatever they hold, and a line before it that is no record makes the file refused (R497 is silent;
notes/assumptions/31.md). -/
def parseRecords : List (List Char) → Option (List HexRecord)
  | [] => some []
  | [] :: ls => parseRecords ls
  | l :: ls =>
    match parseRecord l with
    | none => none
    | some r => if r.kind = .endOfFile then some [r] else (parseRecords ls).map (r :: ·)

/-- The Flash bytes of a file: "the type-00 records that precede the first type-04 record: ROM[address + i] = data byte
i". DESIGN CHOICE: an end-of-file record ends the reading, and a file need not have one (R497 gives its type alone;
notes/assumptions/31.md). -/
def flashCells : List HexRecord → List Host.Cell
  | [] => []
  | r :: rs =>
    match r.kind with
    | .extendedLinear => []
    | .data => Memory.cellsFrom r.addr.toNat r.data ++ flashCells rs
    | .endOfFile => []
    | .extendedSegment => flashCells rs
    | .startSegment => flashCells rs
    | .startLinear => flashCells rs

/-- The loader; a record that reaches beyond the 16-bit ROM address space is not loaded. DESIGN CHOICE: where two records
give one address, the later one counts (notes/assumptions/31.md). -/
def loadRecords (rs : List HexRecord) : Option (List Host.Cell) :=
  if cellsBelow 65536 (flashCells rs) then some (Memory.putAll none [] (flashCells rs)) else none

/-- The ROM contents that a HEX file gives. DESIGN CHOICE: blanks, tabs and carriage returns anywhere in a line are
dropped, and empty lines (R497 gives records without any; notes/assumptions/31.md). -/
def loadHexFile (text : List Char) : Option (List Host.Cell) :=
  match parseRecords ((splitAtChar '\n' text).map fun l => l.filter fun c => !Asm.blankChar c) with
  | some rs => loadRecords rs
  | none => none

/-- Data records of consecutive blocks of `n` bytes; the number bounds the blocks. -/
def blockRecords (n : Nat) : Nat → Word → List Byte → List HexRecord
  | 0, _, _ => []
  | _, _, [] => []
  | fuel + 1, addr, bs => ⟨addr, .data, bs.take n⟩ :: blockRecords n fuel (addr + BitVec.ofNat 16 n) (bs.drop n)

/-- The layout of a HEX file (Table 22): the Flash in 64-byte blocks; the protection bits, which "start at the 1 MB
address", one data record for each 16 KB of Flash; at 2 MB the two-byte data record of the Flash checksum, "beginning
`:0200000000`", so that its first byte is 0x00; the end-of-file record. None where the Flash is not of whole blocks, the
protection records are not as many data records, or the first of them is not at 0x0000. The encoding of the protection
bits and the algorithm of the Flash checksum are not in the source (91_not_in_source.md N14), so the protection records
and the checksum's second byte are given. DESIGN CHOICE: a last part of less than 16 KB has a protection record too, and
the addresses of the later protection records are as given (notes/assumptions/31.md). -/
def hexLayout (flash : List Byte) (protection : List HexRecord) (sum : Byte) : Option (List HexRecord) :=
  if flash.length % 64 = 0 ∧ protection.length = (flash.length + 16383) / 16384 ∧
      (protection.all fun r => r.kind == .data) = true ∧
      (protection.head?.all fun r => r.addr == 0x0000#16) = true then
    some (blockRecords 64 flash.length 0x0000#16 flash ++
      [⟨0x0000#16, .extendedLinear, [0x00#8, 0x10#8]⟩] ++ protection ++
      [⟨0x0000#16, .extendedLinear, [0x00#8, 0x20#8]⟩, ⟨0x0000#16, .data, [0x00#8, sum]⟩,
        ⟨0x0000#16, .endOfFile, []⟩])
  else none

/-! A run (70_reset_and_hazards.md R498, D21). -/

/-- "The result is the final A, X, SP, F, RAM and the sequence of register-space writes" (R498), and PC (D21). -/
structure RunResult where
  a : Byte
  x : Byte
  sp : Byte
  f : Byte
  pc : Word
  /-- The bytes written since reset; every other byte is as power-on left it. -/
  ram : List Host.Cell
  /-- The register-space writes, oldest first. -/
  writes : List RegAccess
  deriving DecidableEq, Repr

/-- The result of a run that ends in a state. -/
def resultOf (s : State) : RunResult :=
  ⟨s.a, s.x, s.sp, s.f, s.pc, s.ram, (s.bus.filter fun e => decide (e.kind = .write)).reverse⟩

/-- Run until `halted` becomes true, at most `n` steps; no result where a step is refused or the steps do not suffice. -/
def runToHalt : Nat → State → Option RunResult
  | 0, s => if s.halted then some (resultOf s) else none
  | n + 1, s =>
    if s.halted then some (resultOf s)
    else match step s with
      | .next t => runToHalt n t
      | .fault _ => none
      | .refused _ => none

/-- A run: "(ROM image, parameters of 00_scope.md rule R4) -> final state", from the reset state; the parameters are the
profile and what the interrupt controller reports (70_reset_and_hazards.md R498). -/
def runProgram (n : Nat) (p : Profile) (rom : List Host.Cell) (irqs : List (Option Nat)) : Option RunResult :=
  runToHalt n (State.boot p rom irqs)

end Sys2Proof.Machine
end

