-- ==== Sys2Proof/Safety.lean ====
section
/-! DEFINITION. The terms in which claims are stated: what a row of the opcode table says, what an instruction may change, what a well-formed state is. -/

namespace Sys2Proof.Machine

/-! Encoding. -/

/-- What a rule's "Encoding" and "Timing" say: the instruction is encoded as these bytes, decoding them from the front of
any byte list gives the instruction and the rest of the list, and it takes this many cycles. -/
def RowSays (i : Instr) (bytes : List Byte) (cycles : Nat) : Prop :=
  encode i = bytes ∧ (∀ rest, decode (bytes ++ rest) = .instr i rest) ∧ instrCycles i = cycles

/-- Byte `bs[j]` stands in readable ROM at `addr + j` modulo 65536, for every j. -/
def BytesAt (s : State) (addr : Word) : List Byte → Prop
  | [] => True
  | b :: bs => romRd s addr = .ok b ∧ BytesAt s (addr + 1) bs

/-! Flags. -/

/-- From F = `f` to F = `f'`: C is set exactly when `c` holds, Z exactly when `z` holds, and the six other bits are
unchanged. -/
def FlagsCZ (f f' : Byte) (c z : Prop) : Prop :=
  (flagC f' = true ↔ c) ∧ (flagZ f' = true ↔ z) ∧ f' &&& 0xF9#8 = f &&& 0xF9#8

/-- From F = `f` to F = `f'`: Z is set exactly when `z` holds, and the seven other bits are unchanged. -/
def FlagsZ (f f' : Byte) (z : Prop) : Prop :=
  (flagZ f' = true ↔ z) ∧ f' &&& 0xFD#8 = f &&& 0xFD#8

/-! RAM. -/

/-- The key of the RAM byte at `addr` of the current page. -/
def curKey (s : State) (addr : Byte) : Nat := curPage s * 256 + addr.toNat

/-- The RAM byte at `addr` of the current page is implemented. -/
def CurOk (s : State) (addr : Byte) : Prop := ramOk s.profile (curPage s) addr = true

/-- The RAM byte at `addr` of the current page. -/
def curByte (s : State) (addr : Byte) : Byte := ramByte s (curKey s addr)

/-- The key of the byte at `addr` of the stack page. -/
def stackKey (s : State) (addr : Byte) : Nat := stackPage s * 256 + addr.toNat

/-- The byte at `addr` of the stack page is implemented. -/
def StackOk (s : State) (addr : Byte) : Prop := ramOk s.profile (stackPage s) addr = true

/-- The byte at `addr` of the stack page. -/
def stackByte (s : State) (addr : Byte) : Byte := ramByte s (stackKey s addr)

/-- From `s` to `t` the RAM byte at one key became `v` and every other RAM byte reads as before. -/
def RamStored (s t : State) (key : Nat) (v : Byte) : Prop :=
  ∀ j, ramByte t j = if j = key then v else ramByte s j

/-- From `s` to `t` a 16-bit value was pushed, upper byte at the lower stack address, and every other RAM byte reads as
before. -/
def WordPushed (s t : State) (w : Word) : Prop :=
  stackByte t s.sp = w.extractLsb' 8 8 ∧ stackByte t (s.sp + 1) = w.extractLsb' 0 8 ∧
  ∀ j, j ≠ stackKey s s.sp → j ≠ stackKey s (s.sp + 1) → ramByte t j = ramByte s j

/-! What an instruction of `n` bytes does, when it completes and does not transfer control: each says that `exec` answers a
next state that differs from the old one in nothing but what it names. -/

/-- It writes `r` to A, C and Z of F, and PC. -/
def WritesA (i : Instr) (s : State) (r : Byte) (c z : Prop) (n : Word) : Prop :=
  ∃ f', FlagsCZ s.f f' c z ∧ exec i s = .next { s with a := r, f := f', pc := s.pc + n }

/-- It writes `r` to A, Z of F, and PC. -/
def WritesAZ (i : Instr) (s : State) (r : Byte) (n : Word) : Prop :=
  ∃ f', FlagsZ s.f f' (r = 0) ∧ exec i s = .next { s with a := r, f := f', pc := s.pc + n }

/-- It writes `r` to X, C and Z of F, and PC. -/
def WritesX (i : Instr) (s : State) (r : Byte) (c z : Prop) (n : Word) : Prop :=
  ∃ f', FlagsCZ s.f f' c z ∧ exec i s = .next { s with x := r, f := f', pc := s.pc + n }

/-- It writes C and Z of F, and PC. -/
def WritesFlags (i : Instr) (s : State) (c z : Prop) (n : Word) : Prop :=
  ∃ f', FlagsCZ s.f f' c z ∧ exec i s = .next { s with f := f', pc := s.pc + n }

/-- It stores `r` at `addr` of the current RAM page, and writes C and Z of F, and PC. -/
def WritesRam (i : Instr) (s : State) (addr r : Byte) (c z : Prop) (n : Word) : Prop :=
  ∃ t, exec i s = .next t ∧ RamStored s t (curKey s addr) r ∧ FlagsCZ s.f t.f c z ∧
    t = { s with ram := t.ram, f := t.f, pc := s.pc + n }

/-- It stores `r` at `addr` of the current RAM page, and writes Z of F, and PC. -/
def WritesRamZ (i : Instr) (s : State) (addr r : Byte) (n : Word) : Prop :=
  ∃ t, exec i s = .next t ∧ RamStored s t (curKey s addr) r ∧ FlagsZ s.f t.f (r = 0) ∧
    t = { s with ram := t.ram, f := t.f, pc := s.pc + n }

/-- It stores `r` at `addr` of the current RAM page, and writes PC; no flag changes. -/
def StoresRam (i : Instr) (s : State) (addr r : Byte) (n : Word) : Prop :=
  ∃ t, exec i s = .next t ∧ RamStored s t (curKey s addr) r ∧
    t = { s with ram := t.ram, pc := s.pc + n }

/-- It writes Z of F and PC. -/
def WritesZ (i : Instr) (s : State) (z : Prop) (n : Word) : Prop :=
  ∃ f', FlagsZ s.f f' z ∧ exec i s = .next { s with f := f', pc := s.pc + n }

/-- Both instructions answer the same next state. -/
def SameNext (i j : Instr) (s : State) : Prop := ∃ t, exec i s = .next t ∧ exec j s = .next t

/-! Register space. -/

/-- From `s` to `t` the byte `v` was written at `addr` of the bank F.XIO selects: it reached the platform as the newest
access after those of `b`; that location stores it unless it is the mirror of F; every other location stores what it
did. -/
def RegStored (s t : State) (b : List RegAccess) (addr v : Byte) : Prop :=
  t.bus = ⟨.write, regLoc s.f addr, v⟩ :: b ∧
  ∀ loc, regByte t loc =
    if loc = regLoc s.f addr ∧ isFMirror s.profile addr = false then v else regByte s loc

/-- It reads the register-space byte at `addr`, writes `op` of it back, and writes Z of F, and PC; nothing else but the
record of accesses and the count of free values changes. -/
def UpdatesReg (i : Instr) (s : State) (addr : Byte) (op : Byte → Byte) (n : Word) : Prop :=
  ∃ t, exec i s = .next t ∧
    RegStored s t (regRd s addr).2.bus addr (op (regRd s addr).1) ∧
    FlagsZ s.f t.f (op (regRd s addr).1 = 0) ∧
    t = { s with f := t.f, regs := t.regs, bus := t.bus, fresh := t.fresh, pc := s.pc + n }

/-- It writes the register-space byte at `addr`, and PC; no flag changes. -/
def StoresReg (i : Instr) (s : State) (addr r : Byte) (n : Word) : Prop :=
  ∃ t, exec i s = .next t ∧ RegStored s t s.bus addr r ∧
    t = { s with regs := t.regs, bus := t.bus, pc := s.pc + n }

/-! The stack frame of interrupts and supervisor calls. -/

/-- The three bytes from SP upwards are implemented. -/
def FrameOk (s : State) : Prop := StackOk s s.sp ∧ StackOk s (s.sp + 1) ∧ StackOk s (s.sp + 2)

/-- From `s` to `t` the return address and F were pushed: upper byte, lower byte, F at ascending stack addresses; the
defined bits of F as they are, and all of F where no undefined bit has been 1 since reset; every other RAM byte reads as
before. -/
def FramePushed (s t : State) (ret : Word) : Prop :=
  stackByte t s.sp = ret.extractLsb' 8 8 ∧ stackByte t (s.sp + 1) = ret.extractLsb' 0 8 ∧
  stackByte t (s.sp + 2) &&& 0x97#8 = s.f &&& 0x97#8 ∧
  ((s.spare ||| s.f) &&& undefinedBits = 0x00#8 → stackByte t (s.sp + 2) = s.f) ∧
  ∀ j, j ≠ stackKey s s.sp → j ≠ stackKey s (s.sp + 1) → j ≠ stackKey s (s.sp + 2) → ramByte t j = ramByte s j

/-! Families of instructions. -/

/-- What an instruction may write in F (10_state.md R51). -/
inductive FlagClass where
  /-- C and Z, no other bit. -/
  | cz
  /-- Z, no other bit. -/
  | z
  /-- No bit. -/
  | none
  /-- All of F. -/
  | whole
  deriving DecidableEq, Repr

/-- The "flags" column of 30_encoding.md R137, with the whole-byte writers told apart (10_state.md R51, 41_logical.md R261). -/
def flagClass : Instr → FlagClass
  | .ssc => .whole
  | .addAImm _ => .cz
  | .addADir _ => .cz
  | .addAIdx _ => .cz
  | .addDirA _ => .cz
  | .addIdxA _ => .cz
  | .addDirImm _ _ => .cz
  | .addIdxImm _ _ => .cz
  | .pushA => .none
  | .adcAImm _ => .cz
  | .adcADir _ => .cz
  | .adcAIdx _ => .cz
  | .adcDirA _ => .cz
  | .adcIdxA _ => .cz
  | .adcDirImm _ _ => .cz
  | .adcIdxImm _ _ => .cz
  | .pushX => .none
  | .subAImm _ => .cz
  | .subADir _ => .cz
  | .subAIdx _ => .cz
  | .subDirA _ => .cz
  | .subIdxA _ => .cz
  | .subDirImm _ _ => .cz
  | .subIdxImm _ _ => .cz
  | .popA => .z
  | .sbbAImm _ => .cz
  | .sbbADir _ => .cz
  | .sbbAIdx _ => .cz
  | .sbbDirA _ => .cz
  | .sbbIdxA _ => .cz
  | .sbbDirImm _ _ => .cz
  | .sbbIdxImm _ _ => .cz
  | .popX => .none
  | .andAImm _ => .z
  | .andADir _ => .z
  | .andAIdx _ => .z
  | .andDirA _ => .z
  | .andIdxA _ => .z
  | .andDirImm _ _ => .z
  | .andIdxImm _ _ => .z
  | .romx => .z
  | .orAImm _ => .z
  | .orADir _ => .z
  | .orAIdx _ => .z
  | .orDirA _ => .z
  | .orIdxA _ => .z
  | .orDirImm _ _ => .z
  | .orIdxImm _ _ => .z
  | .halt => .none
  | .xorAImm _ => .z
  | .xorADir _ => .z
  | .xorAIdx _ => .z
  | .xorDirA _ => .z
  | .xorIdxA _ => .z
  | .xorDirImm _ _ => .z
  | .xorIdxImm _ _ => .z
  | .addSp _ => .none
  | .cmpAImm _ => .cz
  | .cmpADir _ => .cz
  | .cmpAIdx _ => .cz
  | .cmpDirImm _ _ => .cz
  | .cmpIdxImm _ _ => .cz
  | .mviRead _ => .z
  | .mviWrite _ => .none
  | .nop => .none
  | .andReg _ _ => .z
  | .andRegIdx _ _ => .z
  | .orReg _ _ => .z
  | .orRegIdx _ _ => .z
  | .xorReg _ _ => .z
  | .xorRegIdx _ _ => .z
  | .tstDir _ _ => .z
  | .tstIdx _ _ => .z
  | .tstReg _ _ => .z
  | .tstRegIdx _ _ => .z
  | .swapAX => .z
  | .swapADir _ => .z
  | .swapXDir _ => .none
  | .swapASp => .z
  | .movXSp => .none
  | .movAImm _ => .z
  | .movADir _ => .z
  | .movAIdx _ => .z
  | .movDirA _ => .none
  | .movIdxA _ => .none
  | .movDirImm _ _ => .none
  | .movIdxImm _ _ => .none
  | .movXImm _ => .none
  | .movXDir _ => .none
  | .movXIdx _ => .none
  | .movDirX _ => .none
  | .movAX => .z
  | .movXA => .none
  | .movAReg _ => .z
  | .movARegIdx _ => .z
  | .movDirDir _ _ => .none
  | .movRegA _ => .none
  | .movRegIdxA _ => .none
  | .movRegImm _ _ => .none
  | .movRegIdxImm _ _ => .none
  | .aslA => .cz
  | .aslDir _ => .cz
  | .aslIdx _ => .cz
  | .asrA => .cz
  | .asrDir _ => .cz
  | .asrIdx _ => .cz
  | .rlcA => .cz
  | .rlcDir _ => .cz
  | .rlcIdx _ => .cz
  | .rrcA => .cz
  | .rrcDir _ => .cz
  | .rrcIdx _ => .cz
  | .andF _ => .whole
  | .orF _ => .whole
  | .xorF _ => .whole
  | .cplA => .z
  | .incA => .cz
  | .incX => .cz
  | .incDir _ => .cz
  | .incIdx _ => .cz
  | .decA => .cz
  | .decX => .cz
  | .decDir _ => .cz
  | .decIdx _ => .cz
  | .lcall _ => .none
  | .ljmp _ => .none
  | .reti => .whole
  | .ret => .none
  | .jmp _ => .none
  | .call _ => .none
  | .jz _ => .none
  | .jnz _ => .none
  | .jc _ => .none
  | .jnc _ => .none
  | .jacc _ => .none
  | .index _ => .z

/-- What an instruction touches besides F, PC and RAM. -/
structure Touches where
  /-- It writes A (10_state.md R31). -/
  a : Bool := false
  /-- It writes X (10_state.md R32). -/
  x : Bool := false
  /-- It writes SP (10_state.md R33). -/
  sp : Bool := false
  /-- It accesses the register space (10_state.md R47). -/
  regs : Bool := false
  /-- It reads the ROM space as data (20_memory.md R93). -/
  rom : Bool := false
  deriving DecidableEq, Repr

/-- What each instruction touches by itself; what the routine that `SSC` starts touches is not counted. -/
def touches : Instr → Touches
  | .ssc => { sp := true }
  | .addAImm _ => { a := true }
  | .addADir _ => { a := true }
  | .addAIdx _ => { a := true }
  | .addDirA _ => {}
  | .addIdxA _ => {}
  | .addDirImm _ _ => {}
  | .addIdxImm _ _ => {}
  | .pushA => { sp := true }
  | .adcAImm _ => { a := true }
  | .adcADir _ => { a := true }
  | .adcAIdx _ => { a := true }
  | .adcDirA _ => {}
  | .adcIdxA _ => {}
  | .adcDirImm _ _ => {}
  | .adcIdxImm _ _ => {}
  | .pushX => { sp := true }
  | .subAImm _ => { a := true }
  | .subADir _ => { a := true }
  | .subAIdx _ => { a := true }
  | .subDirA _ => {}
  | .subIdxA _ => {}
  | .subDirImm _ _ => {}
  | .subIdxImm _ _ => {}
  | .popA => { a := true, sp := true }
  | .sbbAImm _ => { a := true }
  | .sbbADir _ => { a := true }
  | .sbbAIdx _ => { a := true }
  | .sbbDirA _ => {}
  | .sbbIdxA _ => {}
  | .sbbDirImm _ _ => {}
  | .sbbIdxImm _ _ => {}
  | .popX => { x := true, sp := true }
  | .andAImm _ => { a := true }
  | .andADir _ => { a := true }
  | .andAIdx _ => { a := true }
  | .andDirA _ => {}
  | .andIdxA _ => {}
  | .andDirImm _ _ => {}
  | .andIdxImm _ _ => {}
  | .romx => { a := true, rom := true }
  | .orAImm _ => { a := true }
  | .orADir _ => { a := true }
  | .orAIdx _ => { a := true }
  | .orDirA _ => {}
  | .orIdxA _ => {}
  | .orDirImm _ _ => {}
  | .orIdxImm _ _ => {}
  | .halt => { regs := true }
  | .xorAImm _ => { a := true }
  | .xorADir _ => { a := true }
  | .xorAIdx _ => { a := true }
  | .xorDirA _ => {}
  | .xorIdxA _ => {}
  | .xorDirImm _ _ => {}
  | .xorIdxImm _ _ => {}
  | .addSp _ => { sp := true }
  | .cmpAImm _ => {}
  | .cmpADir _ => {}
  | .cmpAIdx _ => {}
  | .cmpDirImm _ _ => {}
  | .cmpIdxImm _ _ => {}
  | .mviRead _ => { a := true }
  | .mviWrite _ => {}
  | .nop => {}
  | .andReg _ _ => { regs := true }
  | .andRegIdx _ _ => { regs := true }
  | .orReg _ _ => { regs := true }
  | .orRegIdx _ _ => { regs := true }
  | .xorReg _ _ => { regs := true }
  | .xorRegIdx _ _ => { regs := true }
  | .tstDir _ _ => {}
  | .tstIdx _ _ => {}
  | .tstReg _ _ => { regs := true }
  | .tstRegIdx _ _ => { regs := true }
  | .swapAX => { a := true, x := true }
  | .swapADir _ => { a := true }
  | .swapXDir _ => { x := true }
  | .swapASp => { a := true, sp := true }
  | .movXSp => { x := true }
  | .movAImm _ => { a := true }
  | .movADir _ => { a := true }
  | .movAIdx _ => { a := true }
  | .movDirA _ => {}
  | .movIdxA _ => {}
  | .movDirImm _ _ => {}
  | .movIdxImm _ _ => {}
  | .movXImm _ => { x := true }
  | .movXDir _ => { x := true }
  | .movXIdx _ => { x := true }
  | .movDirX _ => {}
  | .movAX => { a := true }
  | .movXA => { x := true }
  | .movAReg _ => { a := true, regs := true }
  | .movARegIdx _ => { a := true, regs := true }
  | .movDirDir _ _ => {}
  | .movRegA _ => { regs := true }
  | .movRegIdxA _ => { regs := true }
  | .movRegImm _ _ => { regs := true }
  | .movRegIdxImm _ _ => { regs := true }
  | .aslA => { a := true }
  | .aslDir _ => {}
  | .aslIdx _ => {}
  | .asrA => { a := true }
  | .asrDir _ => {}
  | .asrIdx _ => {}
  | .rlcA => { a := true }
  | .rlcDir _ => {}
  | .rlcIdx _ => {}
  | .rrcA => { a := true }
  | .rrcDir _ => {}
  | .rrcIdx _ => {}
  | .andF _ => {}
  | .orF _ => {}
  | .xorF _ => {}
  | .cplA => { a := true }
  | .incA => { a := true }
  | .incX => { x := true }
  | .incDir _ => {}
  | .incIdx _ => {}
  | .decA => { a := true }
  | .decX => { x := true }
  | .decDir _ => {}
  | .decIdx _ => {}
  | .lcall _ => { sp := true }
  | .ljmp _ => {}
  | .reti => { sp := true }
  | .ret => { sp := true }
  | .jmp _ => {}
  | .call _ => { sp := true }
  | .jz _ => {}
  | .jnz _ => {}
  | .jc _ => {}
  | .jnc _ => {}
  | .jacc _ => {}
  | .index _ => { a := true, rom := true }

/-- The instructions that write A (10_state.md R31); `SSC` is left out: its routine may. -/
def writesA (i : Instr) : Bool := (touches i).a

/-- The instructions that write X (10_state.md R32); `SSC` is left out: its routine may. -/
def writesX (i : Instr) : Bool := (touches i).x

/-- The instructions that write SP (10_state.md R33). -/
def writesSp (i : Instr) : Bool := (touches i).sp

/-- The instructions that access the register space (10_state.md R47); `SSC` is left out: its routine may. -/
def accessesRegs (i : Instr) : Bool := (touches i).regs

/-- The instructions that read the ROM space as data (20_memory.md R93). -/
def readsRom (i : Instr) : Bool := (touches i).rom

/-! What an instruction accesses in memory. -/

/-- The three RAM bytes of the frame of an interrupt or of `SSC`, (page, address) in the order of the pushes
(60_exceptions.md R446, 45_system.md R425). -/
def frameAccesses (s : State) : List (Nat × Byte) :=
  [(stackPage s, s.sp), (stackPage s, s.sp + 1), (stackPage s, s.sp + 2)]

/-- The RAM bytes that an instruction accesses, (page, address) in the order of its rule (20_memory.md R85 to R90, R94,
R99); what the routine that `SSC` starts accesses is not counted. -/
def ramAccesses (i : Instr) (s : State) : List (Nat × Byte) :=
  match i with
  | .ssc => frameAccesses s
  | .addAImm _ => []
  | .addADir k => [(curPage s, k)]
  | .addAIdx k => [(curPage s, s.x + k)]
  | .addDirA k => [(curPage s, k)]
  | .addIdxA k => [(curPage s, s.x + k)]
  | .addDirImm k1 _ => [(curPage s, k1)]
  | .addIdxImm k1 _ => [(curPage s, s.x + k1)]
  | .pushA => [(stackPage s, s.sp)]
  | .adcAImm _ => []
  | .adcADir k => [(curPage s, k)]
  | .adcAIdx k => [(curPage s, s.x + k)]
  | .adcDirA k => [(curPage s, k)]
  | .adcIdxA k => [(curPage s, s.x + k)]
  | .adcDirImm k1 _ => [(curPage s, k1)]
  | .adcIdxImm k1 _ => [(curPage s, s.x + k1)]
  | .pushX => [(stackPage s, s.sp)]
  | .subAImm _ => []
  | .subADir k => [(curPage s, k)]
  | .subAIdx k => [(curPage s, s.x + k)]
  | .subDirA k => [(curPage s, k)]
  | .subIdxA k => [(curPage s, s.x + k)]
  | .subDirImm k1 _ => [(curPage s, k1)]
  | .subIdxImm k1 _ => [(curPage s, s.x + k1)]
  | .popA => [(stackPage s, s.sp - 1)]
  | .sbbAImm _ => []
  | .sbbADir k => [(curPage s, k)]
  | .sbbAIdx k => [(curPage s, s.x + k)]
  | .sbbDirA k => [(curPage s, k)]
  | .sbbIdxA k => [(curPage s, s.x + k)]
  | .sbbDirImm k1 _ => [(curPage s, k1)]
  | .sbbIdxImm k1 _ => [(curPage s, s.x + k1)]
  | .popX => [(stackPage s, s.sp - 1)]
  | .andAImm _ => []
  | .andADir k => [(curPage s, k)]
  | .andAIdx k => [(curPage s, s.x + k)]
  | .andDirA k => [(curPage s, k)]
  | .andIdxA k => [(curPage s, s.x + k)]
  | .andDirImm k1 _ => [(curPage s, k1)]
  | .andIdxImm k1 _ => [(curPage s, s.x + k1)]
  | .romx => []
  | .orAImm _ => []
  | .orADir k => [(curPage s, k)]
  | .orAIdx k => [(curPage s, s.x + k)]
  | .orDirA k => [(curPage s, k)]
  | .orIdxA k => [(curPage s, s.x + k)]
  | .orDirImm k1 _ => [(curPage s, k1)]
  | .orIdxImm k1 _ => [(curPage s, s.x + k1)]
  | .halt => []
  | .xorAImm _ => []
  | .xorADir k => [(curPage s, k)]
  | .xorAIdx k => [(curPage s, s.x + k)]
  | .xorDirA k => [(curPage s, k)]
  | .xorIdxA k => [(curPage s, s.x + k)]
  | .xorDirImm k1 _ => [(curPage s, k1)]
  | .xorIdxImm k1 _ => [(curPage s, s.x + k1)]
  | .addSp _ => []
  | .cmpAImm _ => []
  | .cmpADir k => [(curPage s, k)]
  | .cmpAIdx k => [(curPage s, s.x + k)]
  | .cmpDirImm k1 _ => [(curPage s, k1)]
  | .cmpIdxImm k1 _ => [(curPage s, s.x + k1)]
  | .mviRead k => [(curPage s, k), (mviReadPage s, curByte s k)]
  | .mviWrite k => [(curPage s, k), (mviWritePage s, curByte s k)]
  | .nop => []
  | .andReg _ _ => []
  | .andRegIdx _ _ => []
  | .orReg _ _ => []
  | .orRegIdx _ _ => []
  | .xorReg _ _ => []
  | .xorRegIdx _ _ => []
  | .tstDir k1 _ => [(curPage s, k1)]
  | .tstIdx k1 _ => [(curPage s, s.x + k1)]
  | .tstReg _ _ => []
  | .tstRegIdx _ _ => []
  | .swapAX => []
  | .swapADir k => [(curPage s, k)]
  | .swapXDir k => [(curPage s, k)]
  | .swapASp => []
  | .movXSp => []
  | .movAImm _ => []
  | .movADir k => [(curPage s, k)]
  | .movAIdx k => [(curPage s, s.x + k)]
  | .movDirA k => [(curPage s, k)]
  | .movIdxA k => [(curPage s, s.x + k)]
  | .movDirImm k1 _ => [(curPage s, k1)]
  | .movIdxImm k1 _ => [(curPage s, s.x + k1)]
  | .movXImm _ => []
  | .movXDir k => [(curPage s, k)]
  | .movXIdx k => [(curPage s, s.x + k)]
  | .movDirX k => [(curPage s, k)]
  | .movAX => []
  | .movXA => []
  | .movAReg _ => []
  | .movARegIdx _ => []
  | .movDirDir k1 k2 => [(curPage s, k2), (curPage s, k1)]
  | .movRegA _ => []
  | .movRegIdxA _ => []
  | .movRegImm _ _ => []
  | .movRegIdxImm _ _ => []
  | .aslA => []
  | .aslDir k => [(curPage s, k)]
  | .aslIdx k => [(curPage s, s.x + k)]
  | .asrA => []
  | .asrDir k => [(curPage s, k)]
  | .asrIdx k => [(curPage s, s.x + k)]
  | .rlcA => []
  | .rlcDir k => [(curPage s, k)]
  | .rlcIdx k => [(curPage s, s.x + k)]
  | .rrcA => []
  | .rrcDir k => [(curPage s, k)]
  | .rrcIdx k => [(curPage s, s.x + k)]
  | .andF _ => []
  | .orF _ => []
  | .xorF _ => []
  | .cplA => []
  | .incA => []
  | .incX => []
  | .incDir k => [(curPage s, k)]
  | .incIdx k => [(curPage s, s.x + k)]
  | .decA => []
  | .decX => []
  | .decDir k => [(curPage s, k)]
  | .decIdx k => [(curPage s, s.x + k)]
  | .lcall _ => [(stackPage s, s.sp), (stackPage s, s.sp + 1)]
  | .ljmp _ => []
  | .reti => [(stackPage s, s.sp - 1), (stackPage s, s.sp - 2), (stackPage s, s.sp - 3)]
  | .ret => [(stackPage s, s.sp - 1), (stackPage s, s.sp - 2)]
  | .jmp _ => []
  | .call _ => [(stackPage s, s.sp), (stackPage s, s.sp + 1)]
  | .jz _ => []
  | .jnz _ => []
  | .jc _ => []
  | .jnc _ => []
  | .jacc _ => []
  | .index _ => []

/-- The first of several RAM bytes that is not implemented (20_memory.md R96). -/
def firstBad (p : Profile) (cs : List (Nat × Byte)) : Option (Nat × Byte) := cs.find? fun c => !ramOk p c.1 c.2

/-- The first byte of unimplemented RAM that an instruction accesses. -/
def badRamAccess (i : Instr) (s : State) : Option (Nat × Byte) := firstBad s.profile (ramAccesses i s)

/-- The ROM address that an instruction reads as data: that of `ROMX` or `INDEX` (20_memory.md R93). -/
def romAccess (i : Instr) (s : State) : Option Word :=
  match i with
  | .romx => some (s.a ++ s.x)
  | .index k => some (BitVec.ofInt 16 ((s.pc.toNat : Int) + 2 + k.toInt + s.a.toNat))
  | _ => none

/-- A ROM address is at or beyond `FLASH_SIZE`, or unassigned (20_memory.md R95, D16). -/
def RomUnreadable (s : State) (addr : Word) : Prop :=
  s.profile.flashSize ≤ addr.toNat ∨ Memory.read? s.rom addr.toNat = none

/-! Well-formed states. -/

/-- A RAM key page * 256 + address of an implemented byte. -/
def ramKeyOk (p : Profile) (key : Nat) : Bool := decide (key / 256 < p.ramPages) && decide (key < p.ramSize)

/-- The state is well formed: the three memories are in canonical form with every key inside its space; `spare` holds
nothing but undefined bits of F; an undefined bit that is 1 in F has been written 1 since reset. -/
def Inv (s : State) : Prop :=
  (Memory.wf none s.ram = true ∧ ∀ c ∈ s.ram, ramKeyOk s.profile c.1 = true) ∧
  (Memory.wf (some 0x00#8) s.regs = true ∧ ∀ c ∈ s.regs, c.1 < 512) ∧
  (Memory.wf none s.rom = true ∧ ∀ c ∈ s.rom, c.1 < 65536) ∧
  s.spare &&& ~~~undefinedBits = 0x00#8 ∧
  s.f &&& undefinedBits &&& ~~~s.spare = 0x00#8

end Sys2Proof.Machine
end

