-- ==== Sys2Proof/Certificates/Slice0/Obligations.lean ====
section
/-! DEFINITION. The statements for the provers: each a proposition about the model in the terms of Safety.lean, with the rule of spec/ it formalises. -/

open Sys2Proof Sys2Proof.Machine

/-- Decoding the encoding of any instruction gives it back (30_encoding.md sections 1 to 3 (R131, R134 to R138)) -/
def Obligations.EncodingRoundTrips : Prop :=
  ∀ (i : Instr) (rest : List Byte), i.wf = true → decode (encode i ++ rest) = .instr i rest

/-- Whatever the decoder reads is the encoding of the instruction it answers (30_encoding.md sections 1 to 3 (R131, R134 to R138)) -/
def Obligations.DecodingRoundTrips : Prop :=
  ∀ (bs rest : List Byte) (i : Instr), decode bs = .instr i rest → bs = encode i ++ rest

/-- Words written out from the rules and from the worked encodings decode to their instructions (30_encoding.md sections 2 and 4 (R131, R134, R136, R141 to R150), 43_control_transfer.md section 5) -/
def Obligations.WrittenWordsDecode : Prop :=
  decode [0x5F, 0x07, 0x08] = .instr (.movDirDir 0x07 0x08) [] ∧
  decode [0x01, 0x07] = .instr (.addAImm 0x07) [] ∧
  decode [0x07, 0x07, 0x05] = .instr (.addIdxImm 0x07 0x05) [] ∧
  decode [0x70, 0x09] = .instr (.andF 0x09) [] ∧
  decode [0x64] = .instr .aslA [] ∧
  decode [0x8F, 0xFD] = .instr (.jmp 0xFFD) [] ∧
  decode [0x90, 0xE8] = .instr (.call 0x0E8) [] ∧
  decode [0xF0, 0xE6] = .instr (.index 0x0E6) [] ∧
  decode [0x7C, 0x00, 0x05] = .instr (.lcall 0x0005) [] ∧
  decode [0x3E, 0x08] = .instr (.mviRead 0x08) [] ∧
  decode [0x7E] = .instr .reti [] ∧
  decode [0x30] = .instr .halt []

/-- No byte sequence is an illegal instruction: three bytes always decode (R138) -/
def Obligations.EveryByteSequenceDecodes : Prop :=
  ∀ (b0 b1 b2 : Byte) (rest : List Byte), ∃ i rest', decode (b0 :: b1 :: b2 :: rest) = .instr i rest' ∧ i.wf = true

/-- The length of an instruction is a function of byte 0: 24 values 1 byte, 33 values 3 bytes, the rest 2 (30_encoding.md section 1 (R130, R133)) -/
def Obligations.LengthIsByFirstByte : Prop :=
  (∀ b0 : Byte, opcodeLength b0 =
      if b0.toNat ∈ [0x00, 0x08, 0x10, 0x18, 0x20, 0x28, 0x30, 0x40, 0x4B, 0x4E, 0x4F, 0x5B,
          0x5C, 0x64, 0x67, 0x6A, 0x6D, 0x73, 0x74, 0x75, 0x78, 0x79, 0x7E, 0x7F] then 1
      else if b0.toNat ∈ [0x06, 0x07, 0x0E, 0x0F, 0x16, 0x17, 0x1E, 0x1F, 0x26, 0x27, 0x2E,
          0x2F, 0x36, 0x37, 0x3C, 0x3D, 0x41, 0x42, 0x43, 0x44, 0x45, 0x46,
          0x47, 0x48, 0x49, 0x4A, 0x55, 0x56, 0x5F, 0x62, 0x63, 0x7C, 0x7D] then 3
      else 2) ∧
  ∀ (b0 : Byte) (bs rest : List Byte) (i : Instr),
    decode (b0 :: bs) = .instr i rest → i.length = opcodeLength b0 ∧ (b0 :: bs).length = i.length + rest.length

/-- A step executes the instruction whose bytes stand at PC (20_memory.md section 1 (R81), 30_encoding.md section 1 (R133), 60_exceptions.md section 2 (R443), 92_eei_decisions.md D17, notes/assumptions/4.md, 19.md) -/
def Obligations.StepRunsDecodedInstruction : Prop :=
  ∀ (s : State) (i : Instr), i.wf = true → s.halted = false → takenIrq s = none → BytesAt s s.pc (encode i) →
    step s = exec i { s with irqs := s.irqs.tail }

/-- A halted core has no step, whatever F.GIE and the interrupt controller say (45_system.md section 1 (R421), 93_implementation_defined.md U17, 92_eei_decisions.md D17, notes/assumptions/19.md, 28.md) -/
def Obligations.HaltedCoreIsStuck : Prop :=
  ∀ s : State, s.halted = true → step s = .fault .halted ∧ stepCycles s = none

/-- With F.GIE set, a reported request is taken at the boundary: frame, F cleared, PC at the vector (60_exceptions.md section 2 (R443 to R446), 60_exceptions.md section 4 (R451), 20_memory.md section 8 (R96), 92_eei_decisions.md D4, D16, D17, notes/assumptions/4.md, 7.md, 18.md, 19.md) -/
def Obligations.InterruptIsTaken : Prop :=
  (∀ (s : State) (n : Nat), takenIrq s = some n ↔ (flagGIE s.f = true ∧ s.irqs.head? = some (some n))) ∧
  (∀ (s : State) (n : Nat) (later : List (Option Nat)),
    s.halted = false → flagGIE s.f = true → s.irqs = some n :: later → FrameOk s →
    ∃ t, step s = .next t ∧ FramePushed s t s.pc ∧ stepCycles s = some 13 ∧
      t = { s with ram := t.ram, sp := s.sp + 3, f := 0x00, pc := vectorOf s.profile n, irqs := later,
                   fresh := t.fresh }) ∧
  ∀ (s : State) (n : Nat) (c : Nat × Byte),
    s.halted = false → takenIrq s = some n → firstBad s.profile (frameAccesses s) = some c →
    step s = .refused (.ramUnimplemented c.1 c.2)

/-- A fetch of any byte at or beyond FLASH_SIZE or at an unassigned address is refused (20_memory.md section 8 (R95), 30_encoding.md section 1 (R133), 60_exceptions.md section 1 (R441), 92_eei_decisions.md D16) -/
def Obligations.UnreadableFetchIsRefused : Prop :=
  ∀ s : State, s.halted = false → takenIrq s = none →
    (RomUnreadable s s.pc → step s = .refused (.romUnreadable s.pc)) ∧
    ∀ b0 : Byte, romRd s s.pc = .ok b0 →
      (opcodeLength b0 ≠ 1 → RomUnreadable s (s.pc + 1) → step s = .refused (.romUnreadable (s.pc + 1))) ∧
      (opcodeLength b0 = 3 → ¬ RomUnreadable s (s.pc + 1) → RomUnreadable s (s.pc + 2) →
        step s = .refused (.romUnreadable (s.pc + 2)))

/-- Interrupt entry followed by RETI changes nothing but the three stack bytes above SP (60_exceptions.md section 2 (R446, R447), 45_system.md section 3 (R423), 92_eei_decisions.md D17, notes/assumptions/4.md, 19.md) -/
def Obligations.InterruptedProgramResumes : Prop :=
  ∀ (s t : State) (n : Nat), s.halted = false → takenIrq s = some n →
    (s.spare ||| s.f) &&& undefinedBits = 0x00 → step s = .next t →
    ∃ u, exec .reti t = .next u ∧
      u = { s with ram := u.ram, irqs := s.irqs.tail } ∧
      ∀ j, j ≠ stackKey s s.sp → j ≠ stackKey s (s.sp + 1) → j ≠ stackKey s (s.sp + 2) →
        ramByte u j = ramByte s j

/-- The state after reset: A, X, SP, PC 0, F 0x02, not halted (10_state.md section 7 (R50), 70_reset_and_hazards.md section 1 (R490, R491), 92_eei_decisions.md D12, D15, D20, notes/assumptions/1.md, 2.md, 25.md, 26.md) -/
def Obligations.ResetValues : Prop :=
  let s := State.reset
  s.a = 0x00 ∧ s.x = 0x00 ∧ s.sp = 0x00 ∧ s.pc = 0x0000 ∧ s.f = 0x02 ∧ s.halted = false ∧
    flagZ s.f = true ∧ flagC s.f = false ∧ flagGIE s.f = false ∧ flagXIO s.f = false ∧ flagPMODE s.f = false ∧
    s.ram = [] ∧ s.wdt = false ∧ s.profile = Profile.base ∧ ∀ loc, regByte s loc = 0x00

/-- POR, WDR and XRES from any state give the reset state; only WDR leaves the watchdog as it was (70_reset_and_hazards.md section 1 (R490, R491), 10_state.md section 7 (R50), 10_state.md section 3 (R42), 92_eei_decisions.md D15, D20) -/
def Obligations.HardwareResetRestarts : Prop :=
  ∀ (k : ResetKind) (s : State),
    let t := s.hardReset k
    t.a = 0x00 ∧ t.x = 0x00 ∧ t.sp = 0x00 ∧ t.pc = 0x0000 ∧ t.f = 0x02 ∧ t.halted = false ∧ t.ram = [] ∧
      t.spare = 0x00 ∧ t.rom = s.rom ∧ t.profile = s.profile ∧ t.irqs = s.irqs ∧ t.bus = s.bus ∧
      (k = .wdr → t.wdt = s.wdt) ∧ (k ≠ .wdr → t.wdt = false) ∧
      (∀ key, ramByte t key = Config.ramPowerOn (s.epoch + 1) key) ∧
      ∀ loc, regByte t loc =
        match s.profile.regPowerOn.reverse.find? (fun c => c.1 == loc) with
        | some c => c.2
        | none => 0x00

/-- The reset state is well formed (10_state.md section 7 (R50)) -/
def Obligations.ResetIsWellFormed : Prop :=
  Inv State.reset

/-- Every step keeps the state well formed (20_memory.md sections 4, 5 and 8 (R88 to R91, R95 to R97), 10_state.md section 3 (R42), notes/assumptions/6.md, 40.md, 41.md) -/
def Obligations.StepKeepsWellFormed : Prop :=
  ∀ s t : State, Inv s → step s = .next t → Inv t

/-- No step writes the ROM, but for a supplied supervisory routine; no step changes the parameters (20_memory.md sections 6 and 9 (R93, R99), 70_reset_and_hazards.md section 4 (R501), 10_state.md section 6 (R49)) -/
def Obligations.RomIsConstant : Prop :=
  ∀ s t : State, step s = .next t →
    t.profile = s.profile ∧ t.wdt = s.wdt ∧ t.epoch = s.epoch ∧ (s.profile.srom = false → t.rom = s.rom)

/-- Only opcode 0x30 sets halted, and no instruction clears it (45_system.md section 1 (R420, R421), 92_eei_decisions.md D13, notes/assumptions/9.md, 16.md) -/
def Obligations.OnlyHaltHalts : Prop :=
  ∀ (i : Instr) (s t : State), exec i s = .next t → (t.halted = true ↔ (s.halted = true ∨ i = .halt))

/-- Which instructions write C and Z: every other bit of F, and F of every other instruction, is unchanged (10_state.md section 4 (R51), 40_arithmetic.md section 1 (R200), 41_logical.md section 1 (R260, R261)) -/
def Obligations.FlagWriters : Prop :=
  ∀ (i : Instr) (s t : State), exec i s = .next t →
    (flagClass i = .none → t.f = s.f) ∧
    (flagClass i = .z → t.f &&& 0xFD = s.f &&& 0xFD) ∧
    (flagClass i = .cz → t.f &&& 0xF9 = s.f &&& 0xF9)

/-- Which instructions write A, X and SP: the lists of R31, R32 and R33 are complete (10_state.md section 1 (R31, R32, R33), 10_state.md section 3 (R44)) -/
def Obligations.RegisterWriters : Prop :=
  ∀ (i : Instr) (s t : State), exec i s = .next t → i ≠ .ssc →
    (writesA i = false → t.a = s.a) ∧ (writesX i = false → t.x = s.x) ∧ (writesSp i = false → t.sp = s.sp)

/-- Only the reg forms and HALT touch the register space (10_state.md section 5 (R47), 92_eei_decisions.md D20, notes/assumptions/22.md) -/
def Obligations.RegisterSpaceWriters : Prop :=
  ∀ (i : Instr) (s t : State), exec i s = .next t → i ≠ .ssc → accessesRegs i = false →
    t.bus = s.bus ∧ ∀ loc, regByte t loc = regByte s loc

/-- No instruction faults; it is refused exactly where the spec defines no behaviour (60_exceptions.md section 1 (R440, R441), 20_memory.md section 8 (R95, R96), 20_memory.md sections 4 and 9 (R88 to R90, R99), 45_system.md section 4 (R426), 92_eei_decisions.md D3, D16) -/
def Obligations.InstructionsNeverTrap : Prop :=
  ∀ (i : Instr) (s : State),
    (∀ c, badRamAccess i s = some c → exec i s = .refused (.ramUnimplemented c.1 c.2)) ∧
    (badRamAccess i s = none →
      (i = .ssc → s.profile.srom = false → exec i s = .refused .noSromCall) ∧
      (∀ addr, romAccess i s = some addr → RomUnreadable s addr → exec i s = .refused (.romUnreadable addr)) ∧
      ((i = .ssc → s.profile.srom = true) → (∀ addr, romAccess i s = some addr → ¬ RomUnreadable s addr) →
        ∃ t, exec i s = .next t))

/-- In the base profile every instruction but SSC, INDEX and ROMX completes in every state (00_scope.md section 4 (R5), 60_exceptions.md section 1 (R440, R441), 92_eei_decisions.md D12, notes/assumptions/2.md) -/
def Obligations.BaseProfileCompletes : Prop :=
  ∀ (i : Instr) (s : State), s.profile = Profile.base → i ≠ .ssc → readsRom i = false →
    ∃ t, exec i s = .next t

/-- An instruction other than INDEX, ROMX and SSC neither reads nor writes the ROM (20_memory.md sections 6 and 9 (R93, R99), 10_state.md section 5 (R45)) -/
def Obligations.DataNeverReadsCode : Prop :=
  ∀ (i : Instr) (s : State) (rom : List Host.Cell), i ≠ .ssc → readsRom i = false →
    (∀ t, exec i s = .next t → exec i { s with rom := rom } = .next { t with rom := rom } ∧ t.rom = s.rom) ∧
    (∀ r, exec i s = .refused r → exec i { s with rom := rom } = .refused r)

/-- ADC: the sum with the carry, C from the sum, Z from the stored byte; immediate and direct forms (R202, R203, R205, R207) -/
def Obligations.AdcResults : Prop :=
  (∀ k k1 k2 : Byte,
      RowSays (.adcAImm k) [0x09, k] 4 ∧
      RowSays (.adcADir k) [0x0A, k] 6 ∧
      RowSays (.adcDirA k) [0x0C, k] 7 ∧
      RowSays (.adcDirImm k1 k2) [0x0E, k1, k2] 9) ∧
  ∀ (s : State) (k v : Byte),
    let r : Byte → Byte → Nat := fun a b => a.toNat + b.toNat + (if flagC s.f then 1 else 0)
    let m := curByte s k
    WritesA (.adcAImm v) s (BitVec.ofNat 8 (r s.a v)) (255 < r s.a v) (r s.a v % 256 = 0) 2 ∧
    (CurOk s k →
      WritesA (.adcADir k) s (BitVec.ofNat 8 (r s.a m)) (255 < r s.a m) (r s.a m % 256 = 0) 2 ∧
      WritesRam (.adcDirA k) s k (BitVec.ofNat 8 (r m s.a)) (255 < r m s.a) (r m s.a % 256 = 0) 2 ∧
      WritesRam (.adcDirImm k v) s k (BitVec.ofNat 8 (r m v)) (255 < r m v) (r m v % 256 = 0) 3)

/-- ADD: the sum, C from the sum, Z from the stored byte; immediate and direct forms (R209, R210, R212, R214) -/
def Obligations.AddResults : Prop :=
  (∀ k k1 k2 : Byte,
      RowSays (.addAImm k) [0x01, k] 4 ∧
      RowSays (.addADir k) [0x02, k] 6 ∧
      RowSays (.addDirA k) [0x04, k] 7 ∧
      RowSays (.addDirImm k1 k2) [0x06, k1, k2] 9) ∧
  ∀ (s : State) (k v : Byte),
    let r : Byte → Byte → Nat := fun a b => a.toNat + b.toNat
    let m := curByte s k
    WritesA (.addAImm v) s (BitVec.ofNat 8 (r s.a v)) (255 < r s.a v) (r s.a v % 256 = 0) 2 ∧
    (CurOk s k →
      WritesA (.addADir k) s (BitVec.ofNat 8 (r s.a m)) (255 < r s.a m) (r s.a m % 256 = 0) 2 ∧
      WritesRam (.addDirA k) s k (BitVec.ofNat 8 (r m s.a)) (255 < r m s.a) (r m s.a % 256 = 0) 2 ∧
      WritesRam (.addDirImm k v) s k (BitVec.ofNat 8 (r m v)) (255 < r m v) (r m v % 256 = 0) 3)

/-- SBB: the difference with the borrow, C the new borrow, Z from the stored byte; immediate and direct forms (R230, R231, R233, R235) -/
def Obligations.SbbResults : Prop :=
  (∀ k k1 k2 : Byte,
      RowSays (.sbbAImm k) [0x19, k] 4 ∧
      RowSays (.sbbADir k) [0x1A, k] 6 ∧
      RowSays (.sbbDirA k) [0x1C, k] 7 ∧
      RowSays (.sbbDirImm k1 k2) [0x1E, k1, k2] 9) ∧
  ∀ (s : State) (k v : Byte),
    let r : Byte → Byte → Int := fun a b => (a.toNat : Int) - ((b.toNat : Int) + (if flagC s.f then 1 else 0))
    let m := curByte s k
    WritesA (.sbbAImm v) s (BitVec.ofInt 8 (r s.a v)) (r s.a v < 0) (r s.a v % 256 = 0) 2 ∧
    (CurOk s k →
      WritesA (.sbbADir k) s (BitVec.ofInt 8 (r s.a m)) (r s.a m < 0) (r s.a m % 256 = 0) 2 ∧
      WritesRam (.sbbDirA k) s k (BitVec.ofInt 8 (r m s.a)) (r m s.a < 0) (r m s.a % 256 = 0) 2 ∧
      WritesRam (.sbbDirImm k v) s k (BitVec.ofInt 8 (r m v)) (r m v < 0) (r m v % 256 = 0) 3)

/-- SUB: the difference, C the borrow, Z from the stored byte; immediate and direct forms (R237, R238, R240, R242) -/
def Obligations.SubResults : Prop :=
  (∀ k k1 k2 : Byte,
      RowSays (.subAImm k) [0x11, k] 4 ∧
      RowSays (.subADir k) [0x12, k] 6 ∧
      RowSays (.subDirA k) [0x14, k] 7 ∧
      RowSays (.subDirImm k1 k2) [0x16, k1, k2] 9) ∧
  ∀ (s : State) (k v : Byte),
    let r : Byte → Byte → Int := fun a b => (a.toNat : Int) - (b.toNat : Int)
    let m := curByte s k
    WritesA (.subAImm v) s (BitVec.ofInt 8 (r s.a v)) (r s.a v < 0) (r s.a v % 256 = 0) 2 ∧
    (CurOk s k →
      WritesA (.subADir k) s (BitVec.ofInt 8 (r s.a m)) (r s.a m < 0) (r s.a m % 256 = 0) 2 ∧
      WritesRam (.subDirA k) s k (BitVec.ofInt 8 (r m s.a)) (r m s.a < 0) (r m s.a % 256 = 0) 2 ∧
      WritesRam (.subDirImm k v) s k (BitVec.ofInt 8 (r m v)) (r m v < 0) (r m v % 256 = 0) 3)

/-- ADD SP: SP plus k modulo 256, no flags (40_arithmetic.md section 3 (R216), 92_eei_decisions.md D19) -/
def Obligations.AddSpResult : Prop :=
  ∀ (s : State) (k : Byte),
    RowSays (.addSp k) [0x38, k] 5 ∧
    exec (.addSp k) s = .next { s with sp := BitVec.ofNat 8 (s.sp.toNat + k.toNat), pc := s.pc + 2 }

/-- CMP: C when the first operand is lower, Z when they are equal, nothing stored; immediate and direct forms (R217, R218, R220) -/
def Obligations.CmpResults : Prop :=
  (∀ k k1 k2 : Byte,
      RowSays (.cmpAImm k) [0x39, k] 5 ∧
      RowSays (.cmpADir k) [0x3A, k] 7 ∧
      RowSays (.cmpDirImm k1 k2) [0x3C, k1, k2] 8) ∧
  ∀ (s : State) (k v : Byte),
    let m := curByte s k
    WritesFlags (.cmpAImm v) s (s.a.toNat < v.toNat) (s.a = v) 2 ∧
    (CurOk s k →
      WritesFlags (.cmpADir k) s (s.a.toNat < m.toNat) (s.a = m) 2 ∧
      WritesFlags (.cmpDirImm k v) s (m.toNat < v.toNat) (m = v) 3)

/-- INC and DEC of A, X and a RAM byte: the result, C and Z (R222, R223, R224, R226, R227, R228) -/
def Obligations.IncDecResults : Prop :=
  (∀ k : Byte,
      RowSays .incA [0x74] 4 ∧
      RowSays .incX [0x75] 4 ∧
      RowSays (.incDir k) [0x76, k] 7 ∧
      RowSays .decA [0x78] 4 ∧
      RowSays .decX [0x79] 4 ∧
      RowSays (.decDir k) [0x7A, k] 7) ∧
  ∀ (s : State) (k : Byte),
    let m := curByte s k
    WritesA .incA s (s.a + 1) (s.a + 1 = 0) (s.a + 1 = 0) 1 ∧
    WritesX .incX s (s.x + 1) (s.x + 1 = 0) (s.x + 1 = 0) 1 ∧
    WritesA .decA s (s.a - 1) (s.a = 0) (s.a = 1) 1 ∧
    WritesX .decX s (s.x - 1) (s.x = 0) (s.x = 1) 1 ∧
    (CurOk s k →
      WritesRam (.incDir k) s k (m + 1) (m + 1 = 0) (m + 1 = 0) 2 ∧
      WritesRam (.decDir k) s k (m - 1) (m = 0) (m = 1) 2)

/-- AND: the bitwise AND to A or to a RAM byte, Z from the result; immediate and direct forms (R263, R264, R266, R268) -/
def Obligations.AndResults : Prop :=
  (∀ k k1 k2 : Byte,
      RowSays (.andAImm k) [0x21, k] 4 ∧
      RowSays (.andADir k) [0x22, k] 6 ∧
      RowSays (.andDirA k) [0x24, k] 7 ∧
      RowSays (.andDirImm k1 k2) [0x26, k1, k2] 9) ∧
  ∀ (s : State) (k v : Byte),
    let m := curByte s k
    WritesAZ (.andAImm v) s (s.a &&& v) 2 ∧
    (CurOk s k →
      WritesAZ (.andADir k) s (s.a &&& m) 2 ∧
      WritesRamZ (.andDirA k) s k (m &&& s.a) 2 ∧
      WritesRamZ (.andDirImm k v) s k (m &&& v) 3)

/-- OR: the bitwise OR to A or to a RAM byte, Z from the result; immediate and direct forms (R274, R275, R277, R279) -/
def Obligations.OrResults : Prop :=
  (∀ k k1 k2 : Byte,
      RowSays (.orAImm k) [0x29, k] 4 ∧
      RowSays (.orADir k) [0x2A, k] 6 ∧
      RowSays (.orDirA k) [0x2C, k] 7 ∧
      RowSays (.orDirImm k1 k2) [0x2E, k1, k2] 9) ∧
  ∀ (s : State) (k v : Byte),
    let m := curByte s k
    WritesAZ (.orAImm v) s (s.a ||| v) 2 ∧
    (CurOk s k →
      WritesAZ (.orADir k) s (s.a ||| m) 2 ∧
      WritesRamZ (.orDirA k) s k (m ||| s.a) 2 ∧
      WritesRamZ (.orDirImm k v) s k (m ||| v) 3)

/-- XOR: the bitwise exclusive OR to A or to a RAM byte, Z from the result; immediate and direct forms (R288, R289, R291, R293) -/
def Obligations.XorResults : Prop :=
  (∀ k k1 k2 : Byte,
      RowSays (.xorAImm k) [0x31, k] 4 ∧
      RowSays (.xorADir k) [0x32, k] 6 ∧
      RowSays (.xorDirA k) [0x34, k] 7 ∧
      RowSays (.xorDirImm k1 k2) [0x36, k1, k2] 9) ∧
  ∀ (s : State) (k v : Byte),
    let m := curByte s k
    WritesAZ (.xorAImm v) s (s.a ^^^ v) 2 ∧
    (CurOk s k →
      WritesAZ (.xorADir k) s (s.a ^^^ m) 2 ∧
      WritesRamZ (.xorDirA k) s k (m ^^^ s.a) 2 ∧
      WritesRamZ (.xorDirImm k v) s k (m ^^^ v) 3)

/-- AND F, OR F, XOR F act on all eight bits of F and on nothing else (41_logical.md section 1 (R261), 41_logical.md sections 2, 4 and 6 (R272, R283, R297), 10_state.md section 3 (R42), 92_eei_decisions.md D10) -/
def Obligations.FlagRegisterResults : Prop :=
  ∀ (s : State) (k : Byte),
    RowSays (.andF k) [0x70, k] 4 ∧ RowSays (.orF k) [0x71, k] 4 ∧ RowSays (.xorF k) [0x72, k] 4 ∧
    exec (.andF k) s =
      .next { s with f := s.f &&& k, spare := s.spare ||| ((s.f &&& k) &&& undefinedBits), pc := s.pc + 2 } ∧
    exec (.orF k) s =
      .next { s with f := s.f ||| k, spare := s.spare ||| ((s.f ||| k) &&& undefinedBits), pc := s.pc + 2 } ∧
    exec (.xorF k) s =
      .next { s with f := s.f ^^^ k, spare := s.spare ||| ((s.f ^^^ k) &&& undefinedBits), pc := s.pc + 2 }

/-- TST of a RAM byte sets Z from the AND and stores nothing; CPL complements A and sets Z (R273, R284) -/
def Obligations.TstCplResults : Prop :=
  ∀ (s : State) (k1 k2 : Byte),
    RowSays (.tstDir k1 k2) [0x47, k1, k2] 8 ∧ RowSays .cplA [0x73] 4 ∧
    WritesAZ .cplA s (~~~s.a) 1 ∧
    (CurOk s k1 → WritesZ (.tstDir k1 k2) s (curByte s k1 &&& k2 = 0) 3)

/-- ASL and ASR of A and of a RAM byte: the result, C the bit moved out, Z (R311, R312, R314, R315) -/
def Obligations.ShiftResults : Prop :=
  (∀ k : Byte,
      RowSays .aslA [0x64] 4 ∧
      RowSays (.aslDir k) [0x65, k] 7 ∧
      RowSays .asrA [0x67] 4 ∧
      RowSays (.asrDir k) [0x68, k] 7) ∧
  ∀ (s : State) (k : Byte),
    let m := curByte s k
    WritesA .aslA s (s.a <<< 1) (s.a.getLsbD 7 = true) (s.a <<< 1 = 0) 1 ∧
    WritesA .asrA s (s.a.sshiftRight 1) (s.a.getLsbD 0 = true) (s.a.sshiftRight 1 = 0) 1 ∧
    (CurOk s k →
      WritesRam (.aslDir k) s k (m <<< 1) (m.getLsbD 7 = true) (m <<< 1 = 0) 2 ∧
      WritesRam (.asrDir k) s k (m.sshiftRight 1) (m.getLsbD 0 = true) (m.sshiftRight 1 = 0) 2)

/-- RLC and RRC of A and of a RAM byte: the 9-bit rotation through C, Z (R317, R318, R320, R321) -/
def Obligations.RotateResults : Prop :=
  (∀ k : Byte,
      RowSays .rlcA [0x6A] 4 ∧
      RowSays (.rlcDir k) [0x6B, k] 7 ∧
      RowSays .rrcA [0x6D] 4 ∧
      RowSays (.rrcDir k) [0x6E, k] 7) ∧
  ∀ (s : State) (k : Byte),
    let m := curByte s k
    let left : Byte → Byte := fun v => (v <<< 1) ||| (if flagC s.f then 0x01 else 0x00)
    let right : Byte → Byte := fun v => (v >>> 1) ||| (if flagC s.f then 0x80 else 0x00)
    WritesA .rlcA s (left s.a) (s.a.getLsbD 7 = true) (left s.a = 0) 1 ∧
    WritesA .rrcA s (right s.a) (s.a.getLsbD 0 = true) (right s.a = 0) 1 ∧
    (CurOk s k →
      WritesRam (.rlcDir k) s k (left m) (m.getLsbD 7 = true) (left m = 0) 2 ∧
      WritesRam (.rrcDir k) s k (right m) (m.getLsbD 0 = true) (right m = 0) 2)

/-- A register-space read: F at 0xF7, the last byte stored at a plain location, a free byte at a device (20_memory.md section 5 (R91, R92), 10_state.md section 3 (R42, R43), 92_eei_decisions.md D11, D20, notes/assumptions/6.md, 15.md, 22.md) -/
def Obligations.RegisterReads : Prop :=
  ∀ (s : State) (addr : Byte),
    let loc := (if flagXIO s.f then 256 else 0) + addr.toNat
    (regRd s addr).2 = { s with bus := (regRd s addr).2.bus, fresh := (regRd s addr).2.fresh } ∧
    (s.profile.fReadable = true → addr = 0xF7 →
      (regRd s addr).1 &&& 0x97 = s.f &&& 0x97 ∧ (regRd s addr).2.bus = s.bus ∧
      ((s.spare ||| s.f) &&& undefinedBits = 0x00 → regRd s addr = (s.f, s))) ∧
    ((s.profile.fReadable = false ∨ addr ≠ 0xF7) → loc ∉ s.profile.devices →
      regRd s addr = (regByte s loc, { s with bus := ⟨.read, loc, regByte s loc⟩ :: s.bus })) ∧
    ((s.profile.fReadable = false ∨ addr ≠ 0xF7) → loc ∈ s.profile.devices →
      regRd s addr = (Config.freeByte s.fresh,
        { s with bus := ⟨.read, loc, Config.freeByte s.fresh⟩ :: s.bus, fresh := s.fresh + 1 }))

/-- AND, OR, XOR of a register-space byte with an immediate: one read, one write, Z; TST reads only (41_logical.md section 1 (R262), 41_logical.md sections 2, 4, 5 and 6 (R270, R281, R286, R295), 20_memory.md section 5 (R91, R92), 92_eei_decisions.md D11, D20, notes/assumptions/15.md, 22.md, 42.md) -/
def Obligations.RegisterLogicResults : Prop :=
  (∀ k1 k2 : Byte,
      RowSays (.andReg k1 k2) [0x41, k1, k2] 9 ∧
      RowSays (.orReg k1 k2) [0x43, k1, k2] 9 ∧
      RowSays (.xorReg k1 k2) [0x45, k1, k2] 9 ∧
      RowSays (.tstReg k1 k2) [0x49, k1, k2] 9) ∧
  ∀ (s : State) (k v : Byte),
    UpdatesReg (.andReg k v) s k (fun b => b &&& v) 3 ∧
    UpdatesReg (.orReg k v) s k (fun b => b ||| v) 3 ∧
    UpdatesReg (.xorReg k v) s k (fun b => b ^^^ v) 3 ∧
    ∃ f', FlagsZ s.f f' ((regRd s k).1 &&& v = 0) ∧
      exec (.tstReg k v) s = .next { (regRd s k).2 with f := f', pc := s.pc + 3 }

/-- MOV to and from a register-space byte: one access, Z only when A is loaded (44_data_movement.md section 3 (R376, R379, R381), 44_data_movement.md section 1 (R360), 20_memory.md section 5 (R91, R92), 92_eei_decisions.md D9, D11, D20, notes/assumptions/14.md, 15.md, 22.md, 42.md) -/
def Obligations.RegisterMoveResults : Prop :=
  (∀ k k1 k2 : Byte,
      RowSays (.movRegA k) [0x60, k] 5 ∧
      RowSays (.movRegImm k1 k2) [0x62, k1, k2] 8 ∧
      RowSays (.movAReg k) [0x5D, k] 6) ∧
  ∀ (s : State) (k v : Byte),
    StoresReg (.movRegA k) s k s.a 2 ∧ StoresReg (.movRegImm k v) s k v 3 ∧
    ∃ f', FlagsZ s.f f' ((regRd s k).1 = 0) ∧
      exec (.movAReg k) s = .next { (regRd s k).2 with a := (regRd s k).1, f := f', pc := s.pc + 2 }

/-- MOV to A from an immediate, a RAM byte and X: A is the byte, Z its zero test (44_data_movement.md section 1 (R360), 44_data_movement.md section 3 (R363, R364, R374), 92_eei_decisions.md D9) -/
def Obligations.LoadAccumulatorResults : Prop :=
  (∀ k : Byte,
      RowSays (.movAImm k) [0x50, k] 4 ∧
      RowSays (.movADir k) [0x51, k] 5 ∧
      RowSays .movAX [0x5B] 4) ∧
  ∀ (s : State) (k : Byte),
    WritesAZ (.movAImm k) s k 2 ∧ WritesAZ .movAX s s.x 1 ∧
    (CurOk s k → WritesAZ (.movADir k) s (curByte s k) 2)

/-- MOV to X from an immediate, a RAM byte, A and SP: X is the byte, no flag changes (R362, R370, R371, R375) -/
def Obligations.LoadIndexResults : Prop :=
  (∀ k : Byte,
      RowSays .movXSp [0x4F] 4 ∧
      RowSays (.movXImm k) [0x57, k] 4 ∧
      RowSays (.movXDir k) [0x58, k] 6 ∧
      RowSays .movXA [0x5C] 4) ∧
  ∀ (s : State) (k : Byte),
    exec .movXSp s = .next { s with x := s.sp, pc := s.pc + 1 } ∧
    exec .movXA s = .next { s with x := s.a, pc := s.pc + 1 } ∧
    exec (.movXImm k) s = .next { s with x := k, pc := s.pc + 2 } ∧
    (CurOk s k → exec (.movXDir k) s = .next { s with x := curByte s k, pc := s.pc + 2 })

/-- MOV to a RAM byte from A, X, an immediate and another RAM byte: one store, no flag changes (R366, R368, R373, R378) -/
def Obligations.StoreResults : Prop :=
  (∀ k k1 k2 : Byte,
      RowSays (.movDirA k) [0x53, k] 5 ∧
      RowSays (.movDirX k) [0x5A, k] 5 ∧
      RowSays (.movDirImm k1 k2) [0x55, k1, k2] 8 ∧
      RowSays (.movDirDir k1 k2) [0x5F, k1, k2] 10) ∧
  ∀ (s : State) (k v : Byte), CurOk s k →
    StoresRam (.movDirA k) s k s.a 2 ∧ StoresRam (.movDirX k) s k s.x 2 ∧ StoresRam (.movDirImm k v) s k v 3 ∧
    (CurOk s v → StoresRam (.movDirDir k v) s k (curByte s v) 3)

/-- MVI A,[[k]++]: A from the byte the pointer names in the MVI read page, the pointer incremented (44_data_movement.md section 4 (R391, R392), 20_memory.md section 4 (R90), 92_eei_decisions.md D8, D9, D22) -/
def Obligations.MviReadResult : Prop :=
  ∀ (s : State) (k : Byte),
    RowSays (.mviRead k) [0x3E, k] 10 ∧
    (CurOk s k → ramOk s.profile (mviReadPage s) (curByte s k) = true →
      ∃ t, exec (.mviRead k) s = .next t ∧
        t.a = ramByte s (mviReadPage s * 256 + (curByte s k).toNat) ∧ FlagsZ s.f t.f (t.a = 0) ∧
        RamStored s t (curKey s k) (curByte s k + 1) ∧
        t = { s with a := t.a, f := t.f, ram := t.ram, pc := s.pc + 2 })

/-- MVI [[k]++],A: A to the byte the pointer names in the MVI write page, then the pointer incremented (44_data_movement.md section 4 (R391, R393), 20_memory.md section 4 (R90), 92_eei_decisions.md D8, D22) -/
def Obligations.MviWriteResult : Prop :=
  ∀ (s : State) (k : Byte),
    RowSays (.mviWrite k) [0x3F, k] 10 ∧
    (CurOk s k → ramOk s.profile (mviWritePage s) (curByte s k) = true →
      ∃ t, exec (.mviWrite k) s = .next t ∧
        (∀ j, ramByte t j =
          if j = curKey s k then curByte s k + 1
          else if j = mviWritePage s * 256 + (curByte s k).toNat then s.a
          else ramByte s j) ∧
        t = { s with ram := t.ram, pc := s.pc + 2 })

/-- PUSH and POP of A and X: the byte at SP, SP moved by one modulo 256, Z only for POP A (44_data_movement.md sections 5 and 6 (R394 to R397), 20_memory.md section 1 (R82), 92_eei_decisions.md D9) -/
def Obligations.StackMoveResults : Prop :=
  (RowSays .pushA [0x08] 4 ∧ RowSays .pushX [0x10] 4 ∧ RowSays .popA [0x18] 5 ∧ RowSays .popX [0x20] 5) ∧
  ∀ s : State,
    (StackOk s s.sp →
      (∃ t, exec .pushA s = .next t ∧ RamStored s t (stackKey s s.sp) s.a ∧
        t = { s with ram := t.ram, sp := s.sp + 1, pc := s.pc + 1 }) ∧
      (∃ t, exec .pushX s = .next t ∧ RamStored s t (stackKey s s.sp) s.x ∧
        t = { s with ram := t.ram, sp := s.sp + 1, pc := s.pc + 1 })) ∧
    (StackOk s (s.sp - 1) →
      (∃ f', FlagsZ s.f f' (stackByte s (s.sp - 1) = 0) ∧
        exec .popA s =
          .next { s with a := stackByte s (s.sp - 1), f := f', sp := s.sp - 1, pc := s.pc + 1 }) ∧
      exec .popX s = .next { s with x := stackByte s (s.sp - 1), sp := s.sp - 1, pc := s.pc + 1 })

/-- SWAP exchanges its operands; Z is the zero test of the new A, and SWAP X,[expr] changes no flag (R401, R402, R403, R404) -/
def Obligations.SwapResults : Prop :=
  (∀ k : Byte,
      RowSays .swapAX [0x4B] 5 ∧
      RowSays (.swapADir k) [0x4C, k] 7 ∧
      RowSays (.swapXDir k) [0x4D, k] 7 ∧
      RowSays .swapASp [0x4E] 5) ∧
  ∀ (s : State) (k : Byte),
    (∃ f', FlagsZ s.f f' (s.x = 0) ∧
      exec .swapAX s = .next { s with a := s.x, x := s.a, f := f', pc := s.pc + 1 }) ∧
    (∃ f', FlagsZ s.f f' (s.sp = 0) ∧
      exec .swapASp s = .next { s with a := s.sp, sp := s.a, f := f', pc := s.pc + 1 }) ∧
    (CurOk s k →
      (∃ t, exec (.swapADir k) s = .next t ∧ RamStored s t (curKey s k) s.a ∧
        FlagsZ s.f t.f (curByte s k = 0) ∧
        t = { s with a := curByte s k, ram := t.ram, f := t.f, pc := s.pc + 2 }) ∧
      (∃ t, exec (.swapXDir k) s = .next t ∧ RamStored s t (curKey s k) s.x ∧
        t = { s with x := curByte s k, ram := t.ram, pc := s.pc + 2 }))

/-- ROMX reads the ROM at A:X, INDEX at pc0 + 2 + k + A, into A; Z is the zero test (44_data_movement.md section 2 (R361), 44_data_movement.md section 7 (R400), 20_memory.md sections 6 and 8 (R93, R95), 92_eei_decisions.md D6, D9, D14, D16) -/
def Obligations.TableReadResults : Prop :=
  ∀ (s : State) (k : Disp),
    let here : Word := s.a ++ s.x
    let there : Word := BitVec.ofInt 16 ((s.pc.toNat : Int) + 2 + k.toInt + s.a.toNat)
    RowSays .romx [0x28] 11 ∧ RowSays (.index k) [0xF#4 ++ k.extractLsb' 8 4, k.extractLsb' 0 8] 13 ∧
    (∀ v, romRd s here = .ok v → WritesAZ .romx s v 1) ∧
    (∀ v, romRd s there = .ok v → WritesAZ (.index k) s v 2) ∧
    (∀ r, romRd s here = .error r → exec .romx s = .refused r) ∧
    (∀ r, romRd s there = .error r → exec (.index k) s = .refused r)

/-- JMP, JZ, JNZ, JC, JNC: to pc0 + 1 + k when the condition holds, else to the next instruction (43_control_transfer.md section 1 (R330), 43_control_transfer.md sections 4 to 8 (R334 to R338), 92_eei_decisions.md D6) -/
def Obligations.RelativeJumpResults : Prop :=
  ∀ (s : State) (k : Disp),
    let target : Word := BitVec.ofInt 16 ((s.pc.toNat : Int) + 1 + k.toInt)
    let past : Word := s.pc + 2
    RowSays (.jmp k) [0x8#4 ++ k.extractLsb' 8 4, k.extractLsb' 0 8] 5 ∧ RowSays (.jz k) [0xA#4 ++ k.extractLsb' 8 4, k.extractLsb' 0 8] 5 ∧
    RowSays (.jnz k) [0xB#4 ++ k.extractLsb' 8 4, k.extractLsb' 0 8] 5 ∧ RowSays (.jc k) [0xC#4 ++ k.extractLsb' 8 4, k.extractLsb' 0 8] 5 ∧
    RowSays (.jnc k) [0xD#4 ++ k.extractLsb' 8 4, k.extractLsb' 0 8] 5 ∧
    exec (.jmp k) s = .next { s with pc := target } ∧
    exec (.jz k) s = .next { s with pc := if flagZ s.f = true then target else past } ∧
    exec (.jnz k) s = .next { s with pc := if flagZ s.f = false then target else past } ∧
    exec (.jc k) s = .next { s with pc := if flagC s.f = true then target else past } ∧
    exec (.jnc k) s = .next { s with pc := if flagC s.f = false then target else past }

/-- JACC: to pc0 + 1 + k + A with A unsigned (43_control_transfer.md section 3 (R333), 92_eei_decisions.md D6, D14) -/
def Obligations.ComputedJumpResult : Prop :=
  ∀ (s : State) (k : Disp),
    RowSays (.jacc k) [0xE#4 ++ k.extractLsb' 8 4, k.extractLsb' 0 8] 7 ∧
    exec (.jacc k) s =
      .next { s with pc := BitVec.ofInt 16 ((s.pc.toNat : Int) + 1 + k.toInt + s.a.toNat) }

/-- LJMP to the 16-bit address, RET to the popped address, NOP to the next instruction (R340, R341, R422) -/
def Obligations.LongJumpReturnNopResults : Prop :=
  ∀ (s : State) (k : Word),
    RowSays (.ljmp k) [0x7D, k.extractLsb' 8 8, k.extractLsb' 0 8] 7 ∧ RowSays .ret [0x7F] 8 ∧
    RowSays .nop [0x40] 4 ∧
    exec (.ljmp k) s = .next { s with pc := k } ∧
    exec .nop s = .next { s with pc := s.pc + 1 } ∧
    (StackOk s (s.sp - 1) → StackOk s (s.sp - 2) →
      exec .ret s =
        .next { s with sp := s.sp - 2, pc := stackByte s (s.sp - 2) ++ stackByte s (s.sp - 1) })

/-- CALL and LCALL push the address of the next instruction, upper byte first, and go to the target (43_control_transfer.md section 1 (R331), 43_control_transfer.md sections 2 and 9 (R332, R339), 20_memory.md section 1 (R82), 92_eei_decisions.md D1, D6) -/
def Obligations.CallResults : Prop :=
  ∀ (s : State) (k : Disp) (w : Word),
    RowSays (.call k) [0x9#4 ++ k.extractLsb' 8 4, k.extractLsb' 0 8] 11 ∧
    RowSays (.lcall w) [0x7C, w.extractLsb' 8 8, w.extractLsb' 0 8] 13 ∧
    (StackOk s s.sp → StackOk s (s.sp + 1) →
      (∃ t, exec (.call k) s = .next t ∧ WordPushed s t (s.pc + 2) ∧
        t = { s with ram := t.ram, sp := s.sp + 2,
                     pc := BitVec.ofInt 16 ((s.pc.toNat : Int) + 2 + k.toInt) }) ∧
      (∃ t, exec (.lcall w) s = .next t ∧ WordPushed s t (s.pc + 3) ∧
        t = { s with ram := t.ram, sp := s.sp + 2, pc := w }))

/-- A RET after a CALL or an LCALL resumes after it with SP as before (43_control_transfer.md section 1 (R331), 43_control_transfer.md section 11 (R341), 90_conflicts.md C2, C3, 92_eei_decisions.md D1) -/
def Obligations.ReturnFromCall : Prop :=
  ∀ (i : Instr) (s t : State), (∃ k, i = .call k) ∨ (∃ w, i = .lcall w) → exec i s = .next t →
    ∃ u, exec .ret t = .next u ∧
      u = { s with ram := u.ram, pc := s.pc + BitVec.ofNat 16 i.length } ∧
      ∀ j, j ≠ stackKey s s.sp → j ≠ stackKey s (s.sp + 1) → ramByte u j = ramByte s j

/-- RETI restores all of F, then PC, from the three stack bytes below SP (45_system.md section 3 (R423), 10_state.md section 3 (R42), 92_eei_decisions.md D10) -/
def Obligations.ReturnFromInterruptResult : Prop :=
  ∀ s : State,
    RowSays .reti [0x7E] 10 ∧
    (StackOk s (s.sp - 1) → StackOk s (s.sp - 2) → StackOk s (s.sp - 3) →
      exec .reti s =
        .next { s with sp := s.sp - 3, f := stackByte s (s.sp - 1),
                       spare := s.spare ||| (stackByte s (s.sp - 1) &&& undefinedBits),
                       pc := stackByte s (s.sp - 3) ++ stackByte s (s.sp - 2) })

/-- SSC builds the frame and runs the routine to its RETI; with no SromCall supplied it is refused (45_system.md section 4 (R424, R425, R426), 92_eei_decisions.md D2, D3) -/
def Obligations.SupervisorCallResult : Prop :=
  ∀ s : State, RowSays .ssc [0x00] 15 ∧
    (FrameOk s →
      ∃ u, enterHandler s (s.pc + 1) 0x0000 = .ok u ∧ FramePushed s u (s.pc + 1) ∧
        u = { s with ram := u.ram, sp := s.sp + 3, f := 0x00, pc := 0x0000, fresh := u.fresh } ∧
        (s.profile.srom = false → exec .ssc s = .refused .noSromCall) ∧
        (s.profile.srom = true →
          let v := applySrom u (sromEffect u)
          ∃ t, exec .ssc s = .next t ∧ t.a = (sromEffect u).a ∧ t.x = (sromEffect u).x ∧ t.sp = s.sp ∧
            t.f = stackByte v (s.sp + 2) ∧ t.pc = stackByte v s.sp ++ stackByte v (s.sp + 1) ∧
            t.halted = s.halted ∧ t.irqs = s.irqs ∧ t.profile = s.profile ∧ t.wdt = s.wdt))

/-- HALT increments CPU_SCR in the bank F.XIO selects and sets halted (45_system.md section 1 (R420, R421), 20_memory.md sections 5 and 8 (R91, R97), 92_eei_decisions.md D13, D20, notes/assumptions/16.md, 22.md, 42.md) -/
def Obligations.HaltResult : Prop :=
  ∀ s : State, RowSays .halt [0x30] 9 ∧
    ∃ t, exec .halt s = .next t ∧
      RegStored s t (regRd s 0xFF).2.bus 0xFF ((regRd s 0xFF).1 + 1) ∧
      t = { s with regs := t.regs, bus := t.bus, fresh := t.fresh, halted := true, pc := s.pc + 1 }

/-- Every [X+expr] and reg[X+expr] form does what its direct form does at address (X + k) mod 256 (20_memory.md sections 3 and 5 (R85, R86, R91), 40_arithmetic.md sections 2 to 8, 41_logical.md sections 2 to 6, 42_shift_rotate.md sections 2 to 5, 44_data_movement.md section 3, 92_eei_decisions.md D7) -/
def Obligations.IndexedForms : Prop :=
  (∀ k v : Byte,
      RowSays (.addAIdx k) [0x03, k] 7 ∧
      RowSays (.addIdxA k) [0x05, k] 8 ∧
      RowSays (.addIdxImm k v) [0x07, k, v] 10 ∧
      RowSays (.adcAIdx k) [0x0B, k] 7 ∧
      RowSays (.adcIdxA k) [0x0D, k] 8 ∧
      RowSays (.adcIdxImm k v) [0x0F, k, v] 10 ∧
      RowSays (.subAIdx k) [0x13, k] 7 ∧
      RowSays (.subIdxA k) [0x15, k] 8 ∧
      RowSays (.subIdxImm k v) [0x17, k, v] 10 ∧
      RowSays (.sbbAIdx k) [0x1B, k] 7 ∧
      RowSays (.sbbIdxA k) [0x1D, k] 8 ∧
      RowSays (.sbbIdxImm k v) [0x1F, k, v] 10 ∧
      RowSays (.andAIdx k) [0x23, k] 7 ∧
      RowSays (.andIdxA k) [0x25, k] 8 ∧
      RowSays (.andIdxImm k v) [0x27, k, v] 10 ∧
      RowSays (.orAIdx k) [0x2B, k] 7 ∧
      RowSays (.orIdxA k) [0x2D, k] 8 ∧
      RowSays (.orIdxImm k v) [0x2F, k, v] 10 ∧
      RowSays (.xorAIdx k) [0x33, k] 7 ∧
      RowSays (.xorIdxA k) [0x35, k] 8 ∧
      RowSays (.xorIdxImm k v) [0x37, k, v] 10 ∧
      RowSays (.cmpAIdx k) [0x3B, k] 8 ∧
      RowSays (.cmpIdxImm k v) [0x3D, k, v] 9 ∧
      RowSays (.tstIdx k v) [0x48, k, v] 9 ∧
      RowSays (.movAIdx k) [0x52, k] 6 ∧
      RowSays (.movIdxA k) [0x54, k] 6 ∧
      RowSays (.movIdxImm k v) [0x56, k, v] 9 ∧
      RowSays (.movXIdx k) [0x59, k] 7 ∧
      RowSays (.aslIdx k) [0x66, k] 8 ∧
      RowSays (.asrIdx k) [0x69, k] 8 ∧
      RowSays (.rlcIdx k) [0x6C, k] 8 ∧
      RowSays (.rrcIdx k) [0x6F, k] 8 ∧
      RowSays (.incIdx k) [0x77, k] 8 ∧
      RowSays (.decIdx k) [0x7B, k] 8 ∧
      RowSays (.andRegIdx k v) [0x42, k, v] 10 ∧
      RowSays (.orRegIdx k v) [0x44, k, v] 10 ∧
      RowSays (.xorRegIdx k v) [0x46, k, v] 10 ∧
      RowSays (.tstRegIdx k v) [0x4A, k, v] 10 ∧
      RowSays (.movARegIdx k) [0x5E, k] 7 ∧
      RowSays (.movRegIdxA k) [0x61, k] 6 ∧
      RowSays (.movRegIdxImm k v) [0x63, k, v] 9) ∧
  (∀ (s : State) (k v : Byte), CurOk s (s.x + k) →
      SameNext (.addAIdx k) (.addADir (s.x + k)) s ∧
      SameNext (.addIdxA k) (.addDirA (s.x + k)) s ∧
      SameNext (.addIdxImm k v) (.addDirImm (s.x + k) v) s ∧
      SameNext (.adcAIdx k) (.adcADir (s.x + k)) s ∧
      SameNext (.adcIdxA k) (.adcDirA (s.x + k)) s ∧
      SameNext (.adcIdxImm k v) (.adcDirImm (s.x + k) v) s ∧
      SameNext (.subAIdx k) (.subADir (s.x + k)) s ∧
      SameNext (.subIdxA k) (.subDirA (s.x + k)) s ∧
      SameNext (.subIdxImm k v) (.subDirImm (s.x + k) v) s ∧
      SameNext (.sbbAIdx k) (.sbbADir (s.x + k)) s ∧
      SameNext (.sbbIdxA k) (.sbbDirA (s.x + k)) s ∧
      SameNext (.sbbIdxImm k v) (.sbbDirImm (s.x + k) v) s ∧
      SameNext (.andAIdx k) (.andADir (s.x + k)) s ∧
      SameNext (.andIdxA k) (.andDirA (s.x + k)) s ∧
      SameNext (.andIdxImm k v) (.andDirImm (s.x + k) v) s ∧
      SameNext (.orAIdx k) (.orADir (s.x + k)) s ∧
      SameNext (.orIdxA k) (.orDirA (s.x + k)) s ∧
      SameNext (.orIdxImm k v) (.orDirImm (s.x + k) v) s ∧
      SameNext (.xorAIdx k) (.xorADir (s.x + k)) s ∧
      SameNext (.xorIdxA k) (.xorDirA (s.x + k)) s ∧
      SameNext (.xorIdxImm k v) (.xorDirImm (s.x + k) v) s ∧
      SameNext (.cmpAIdx k) (.cmpADir (s.x + k)) s ∧
      SameNext (.cmpIdxImm k v) (.cmpDirImm (s.x + k) v) s ∧
      SameNext (.tstIdx k v) (.tstDir (s.x + k) v) s ∧
      SameNext (.movAIdx k) (.movADir (s.x + k)) s ∧
      SameNext (.movIdxA k) (.movDirA (s.x + k)) s ∧
      SameNext (.movIdxImm k v) (.movDirImm (s.x + k) v) s ∧
      SameNext (.movXIdx k) (.movXDir (s.x + k)) s ∧
      SameNext (.aslIdx k) (.aslDir (s.x + k)) s ∧
      SameNext (.asrIdx k) (.asrDir (s.x + k)) s ∧
      SameNext (.rlcIdx k) (.rlcDir (s.x + k)) s ∧
      SameNext (.rrcIdx k) (.rrcDir (s.x + k)) s ∧
      SameNext (.incIdx k) (.incDir (s.x + k)) s ∧
      SameNext (.decIdx k) (.decDir (s.x + k)) s) ∧
  ∀ (s : State) (k v : Byte),
      SameNext (.andRegIdx k v) (.andReg (s.x + k) v) s ∧
      SameNext (.orRegIdx k v) (.orReg (s.x + k) v) s ∧
      SameNext (.xorRegIdx k v) (.xorReg (s.x + k) v) s ∧
      SameNext (.tstRegIdx k v) (.tstReg (s.x + k) v) s ∧
      SameNext (.movARegIdx k) (.movAReg (s.x + k)) s ∧
      SameNext (.movRegIdxA k) (.movRegA (s.x + k)) s ∧
      SameNext (.movRegIdxImm k v) (.movRegImm (s.x + k) v) s

/-- Which RAM page an access uses: 0 with one page; STACK_PAGE; the page-pointer registers (20_memory.md section 4 (R88, R89, R90), 70_reset_and_hazards.md section 4 (R499), 92_eei_decisions.md D12, D20, notes/assumptions/22.md, 23.md, 24.md) -/
def Obligations.RamPages : Prop :=
  (∀ s : State, s.profile.ramPages ≤ 1 →
      curPage s = 0 ∧ stackPage s = 0 ∧ mviReadPage s = 0 ∧ mviWritePage s = 0) ∧
  (∀ s : State, 1 < s.profile.ramPages →
      stackPage s = s.profile.stackPage ∧
      mviReadPage s = (regByte s s.profile.dprDr).toNat ∧ mviWritePage s = (regByte s s.profile.dpwDr).toNat ∧
      (s.profile.pageRule = .pointer → curPage s = (regByte s s.profile.cppDr).toNat) ∧
      (s.profile.pageRule = .device → curPage s = Config.curPage (regByte s s.profile.cppDr) (flagPMODE s.f))) ∧
  ∀ (s : State) (k v : Byte), 1 < s.profile.ramPages → isFMirror s.profile k = false →
    ∃ t, exec (.movRegImm k v) s = .next t ∧
      (regLoc s.f k = s.profile.dprDr → mviReadPage t = v.toNat) ∧
      (regLoc s.f k = s.profile.dpwDr → mviWritePage t = v.toNat) ∧
      (regLoc s.f k = s.profile.cppDr → s.profile.pageRule = .pointer → curPage t = v.toNat)

/-- Every Intel HEX record is read back as it was written; a wrong checksum is refused (70_reset_and_hazards.md section 3 (R497), notes/assumptions/31.md) -/
def Obligations.HexRecordRoundTrips : Prop :=
  (∀ r : HexRecord, r.data.length ≤ 255 → parseRecord r.text = some r) ∧
  (∀ bs : List Byte, byteSum bs ≠ 0x00 → hexRecordOf bs = none) ∧
  HexRecord.text ⟨0x0000, .extendedLinear, [0x00, 0x10]⟩ = ":020000040010ea".toList ∧
  HexRecord.text ⟨0x0000, .extendedLinear, [0x00, 0x20]⟩ = ":020000040020da".toList ∧
  HexRecord.text ⟨0x0000, .endOfFile, []⟩ = ":00000001ff".toList

/-- A loaded ROM file assigns ROM[i] its i-th byte and nothing else; the booted machine is well formed (70_reset_and_hazards.md section 3 (R496, R498), 70_reset_and_hazards.md section 1 (R491)) -/
def Obligations.LoadedMachineStartsWellFormed : Prop :=
  ∀ bs : List Byte, bs.length ≤ 65536 →
    ∃ rom, loadBytes bs = some rom ∧ Memory.wf none rom = true ∧ (∀ i, Memory.read? rom i = bs[i]?) ∧
      ∀ (p : Profile) (irqs : List (Option Nat)), cellsBelow 512 p.regPowerOn = true →
        Inv (State.boot p rom irqs) ∧ (State.boot p rom irqs).irqs = irqs

/-- The displacement the assembler stores takes JMP and CALL to the target written; out of range it reports an error (30_encoding.md section 5 (R169), 43_control_transfer.md section 1 (R330), 43_control_transfer.md section 2 (R332), 92_eei_decisions.md D6, notes/assumptions/11.md) -/
def Obligations.AssembledJumpsReachTheirTarget : Prop :=
  ∀ (addr relative : Nat) (target : Asm.Value),
    let d : Int := (target.toNat : Int) - ((addr : Int) + (relative : Int))
    ((d < -2048 ∨ 2047 < d) ↔ Asm.displacement addr relative target = .error .branchOutOfRange) ∧
    ∀ (k : Disp) (s : State), Asm.displacement addr relative target = .ok k → s.pc = BitVec.ofNat 16 addr →
      (relative = 1 → exec (.jmp k) s = .next { s with pc := target.setWidth 16 }) ∧
      (relative = 2 → StackOk s s.sp → StackOk s (s.sp + 1) →
        ∃ t, exec (.call k) s = .next t ∧ t.pc = target.setWidth 16)
end

