-- ==== Sys2Proof/Laws/Decode.lean ====
section
/-! SUPPORT. The pieces of encoding and decoding: operand assembly undoes operand encoding, and the row of each 4-bit opcode. -/

namespace Sys2Proof

/-- The 12-bit operand assembled from its encoding is the operand (30_encoding.md R134). -/
theorem relOperand_encodeRel (op : BitVec 4) (k : Disp) :
    relOperand (op ++ k.extractLsb' 8 4) (k.extractLsb' 0 8) = k := by
  unfold relOperand
  ext i hi
  simp only [BitVec.getElem_append, BitVec.getElem_extractLsb']
  split
  · simp [BitVec.getLsbD_eq_getElem, *]
  · have h1 : 0 + (i - 8) < 4 := by omega
    have h2 : 8 + (0 + (i - 8)) = i := by omega
    grind

/-- The 16-bit operand assembled from its encoding is the operand (30_encoding.md R136). -/
theorem longOperand_encodeLong (k : Word) : (k.extractLsb' 8 8 ++ k.extractLsb' 0 8 : Word) = k := by
  ext i hi
  simp only [BitVec.getElem_append, BitVec.getElem_extractLsb']
  split
  · simp [BitVec.getLsbD_eq_getElem, *]
  · have h2 : 8 + (i - 8) = i := by omega
    simp [h2, BitVec.getLsbD_eq_getElem, hi]

/-- The row of a byte 0 from 0x80 on is the one its upper nibble selects (30_encoding.md R137). -/
theorem opcodeRow_rel (op h : BitVec 4) (hop : 8 ≤ op.toNat) :
    opcodeRow (op ++ h) = relMap[op.toNat - 8]? := by
  have h1 : (op ++ h : Byte).toNat = op.toNat * 16 + h.toNat := by
    simp only [BitVec.toNat_append]
    rw [← Nat.shiftLeft_add_eq_or_of_lt h.isLt, Nat.shiftLeft_eq]
  have h2 : h.toNat < 16 := h.isLt
  have h3 : ¬ (op ++ h : Byte).toNat < 128 := by omega
  have h4 : (op ++ h : Byte).toNat / 16 - 8 = op.toNat - 8 := by omega
  simp only [opcodeRow, h3, if_false, h4]

/-- Decoding the encoding of a relative operand. -/
theorem decode_encodeRel (op : BitVec 4) (k : Disp) (rest : List Byte) (mk : Disp → Instr) (hop : 8 ≤ op.toNat)
    (hmk : relMap[op.toNat - 8]? = some (.f2r mk)) :
    decode (encodeRel op k ++ rest) = .instr (mk k) rest := by
  simp only [encodeRel, List.cons_append, List.nil_append, decode, opcodeRow_rel op _ hop, hmk, decodeRow,
    relOperand_encodeRel]

/-- The length that byte 0 of an encoded relative operand asks for. -/
theorem opcodeLength_encodeRel (op h : BitVec 4) (mk : Disp → Instr) (hop : 8 ≤ op.toNat)
    (hmk : relMap[op.toNat - 8]? = some (.f2r mk)) : opcodeLength (op ++ h) = 2 := by
  simp only [opcodeLength, opcodeRow_rel op h hop, hmk, Row.length]

end Sys2Proof
end

