-- ==== Sys2Proof/Laws/Flags.lean ====
section
/-! SUPPORT. What each flag computation does to F, said once. -/

namespace Sys2Proof.Machine

theorem flagC_setFlagC (f : Byte) (c : Bool) : flagC (setFlagC f c) = c := by
  cases c <;> simp [flagC, setFlagC]

theorem flagZ_setFlagZ (f v : Byte) : flagZ (setFlagZ f v) = decide (v = 0x00#8) := by
  by_cases h : v = 0x00#8 <;> simp [flagZ, setFlagZ, h]

theorem flagC_setFlagZ (f v : Byte) : flagC (setFlagZ f v) = flagC f := by
  by_cases h : v = 0x00#8 <;> simp [flagC, setFlagZ, h]

theorem setFlagZ_others (f v : Byte) : setFlagZ f v &&& 0xFD#8 = f &&& 0xFD#8 := by
  by_cases h : v = 0x00#8 <;> simp only [setFlagZ, h, if_true, if_false] <;> ext i hi <;>
    interval_cases i <;> simp

theorem setFlagsCZ_others (f : Byte) (c : Bool) (v : Byte) : setFlagsCZ f c v &&& 0xF9#8 = f &&& 0xF9#8 := by
  by_cases h : v = 0x00#8 <;> cases c <;>
    simp only [setFlagsCZ, setFlagC, setFlagZ, h, if_true, if_false, Bool.false_eq_true] <;> ext i hi <;>
    interval_cases i <;> simp

/-- `setZ` writes Z and nothing else. -/
theorem flagsZ_setFlagZ (f v : Byte) : FlagsZ f (setFlagZ f v) (v = 0) :=
  ⟨by simp [flagZ_setFlagZ], setFlagZ_others f v⟩

/-- C and Z written, nothing else. -/
theorem flagsCZ_setFlagsCZ (f : Byte) (c : Bool) (v : Byte) :
    FlagsCZ f (setFlagsCZ f c v) (c = true) (v = 0) :=
  ⟨by simp [setFlagsCZ, flagC_setFlagZ, flagC_setFlagC], by simp [setFlagsCZ, flagZ_setFlagZ],
    setFlagsCZ_others f c v⟩

/-- The conditions of `FlagsCZ` may be replaced by equivalent ones. -/
theorem FlagsCZ.congr {f f' : Byte} {c z c' z' : Prop} (h : FlagsCZ f f' c z) (hc : c ↔ c') (hz : z ↔ z') :
    FlagsCZ f f' c' z' := ⟨h.1.trans hc, h.2.1.trans hz, h.2.2⟩

/-- A byte narrowed from a natural number is 0 exactly when the number is a multiple of 256. -/
theorem ofNat_eq_zero (n : Nat) : BitVec.ofNat 8 n = 0x00#8 ↔ n % 256 = 0 := by
  rw [← BitVec.toNat_inj]; simp

/-- A byte narrowed from an integer is 0 exactly when the integer is a multiple of 256. -/
theorem ofInt_eq_zero (n : Int) : BitVec.ofInt 8 n = 0x00#8 ↔ n % 256 = 0 := by
  rw [← BitVec.toNat_inj]
  simp only [BitVec.toNat_ofInt, BitVec.toNat_ofNat]
  omega

/-- The flags of a sum (40_arithmetic.md R200). -/
theorem flagsCZ_ofSum (f : Byte) (r : Nat) : FlagsCZ f (Alu.ofSum f r).2 (255 < r) (r % 256 = 0) :=
  (flagsCZ_setFlagsCZ _ _ _).congr (by simp) (ofNat_eq_zero r)

/-- The flags of a difference (40_arithmetic.md R200). -/
theorem flagsCZ_ofDifference (f : Byte) (r : Int) : FlagsCZ f (Alu.ofDifference f r).2 (r < 0) (r % 256 = 0) :=
  (flagsCZ_setFlagsCZ _ _ _).congr (by simp) (ofInt_eq_zero r)

/-- The flags of a logical operation (41_logical.md R260). -/
theorem flagsZ_ofLogic (f r : Byte) : FlagsZ f (Alu.ofLogic f r).2 (r = 0) := flagsZ_setFlagZ f r

end Sys2Proof.Machine
end

