-- ==== Sys2Proof/Laws/Memory.lean ====
section
/-! SUPPORT. The laws of memory: a read after a write, and that every write keeps the canonical form. -/

namespace Sys2Proof.Machine

theorem Memory.read?_erase (m : List Host.Cell) (a b : Nat) :
    Memory.read? (Memory.erase m a) b = if b = a then none else Memory.read? m b := by
  induction m with
  | nil => simp [Memory.erase, Memory.read?]
  | cons c m ih =>
    obtain ⟨k, v⟩ := c
    by_cases hk : a = k
    · subst hk
      simp only [Memory.erase, if_true, Memory.read?, ih]
      split <;> rfl
    · by_cases hb : b = k
      · subst hb
        simp [Memory.erase, Memory.read?, hk, Ne.symm hk]
      · simp [Memory.erase, Memory.read?, hk, hb, ih]

theorem Memory.read?_insert (m : List Host.Cell) (a b : Nat) (v : Byte) (h : Memory.read? m a = none) :
    Memory.read? (Memory.insert m a v) b = if b = a then some v else Memory.read? m b := by
  induction m with
  | nil => simp [Memory.insert, Memory.read?]
  | cons c m ih =>
    obtain ⟨k, w⟩ := c
    by_cases hk : a = k
    · simp [Memory.read?, hk] at h
    · simp only [Memory.read?, hk, if_false] at h
      by_cases hlt : a < k
      · simp [Memory.insert, Memory.read?, hlt]
      · by_cases hb : b = k
        · subst hb
          simp [Memory.insert, Memory.read?, hlt, Ne.symm hk]
        · simp [Memory.insert, Memory.read?, hlt, hb, ih h]

/-- A read after a write, where an unlisted address has no byte of its own. -/
@[simp] theorem Memory.read?_put_none (m : List Host.Cell) (a b : Nat) (v : Byte) :
    Memory.read? (Memory.put none m a v) b = if b = a then some v else Memory.read? m b := by
  have h : Memory.read? (Memory.erase m a) a = none := by simp [Memory.read?_erase]
  simp only [Memory.put, reduceCtorEq, if_false, Memory.read?_insert _ _ _ _ h, Memory.read?_erase]
  split <;> rfl

/-- A read after a write, where an unlisted address has no byte of its own, in terms of the byte read. -/
theorem Memory.readD_put_none (d : Byte) (m : List Host.Cell) (a b : Nat) (v : Byte) :
    Memory.readD d (Memory.put none m a v) b = if b = a then v else Memory.readD d m b := by
  simp only [Memory.readD, Memory.read?_put_none]
  by_cases h : b = a <;> simp [h]

/-- A read after a write, where an unlisted address reads `d`. -/
theorem Memory.readD_put_some (d : Byte) (m : List Host.Cell) (a b : Nat) (v : Byte) :
    Memory.readD d (Memory.put (some d) m a v) b = if b = a then v else Memory.readD d m b := by
  by_cases hv : d = v
  · subst hv
    simp only [Memory.put, if_true, Memory.readD, Memory.read?_erase]
    by_cases h : b = a <;> simp [h]
  · have h : Memory.read? (Memory.erase m a) a = none := by simp [Memory.read?_erase]
    have hv' : (some d : Option Byte) ≠ some v := by simpa using hv
    simp only [Memory.put, hv', if_false, Memory.readD, Memory.read?_insert _ _ _ _ h, Memory.read?_erase]
    by_cases hb : b = a <;> simp [hb]

/-- A byte read after several were written: the last one written to its address, else what was read before. -/
theorem Memory.readD_putAll_some (d : Byte) (ws m : List Host.Cell) (a : Nat) :
    Memory.readD d (Memory.putAll (some d) m ws) a =
      match ws.reverse.find? (fun c => c.1 == a) with
      | some c => c.2
      | none => Memory.readD d m a := by
  induction ws generalizing m with
  | nil => rfl
  | cons c ws ih =>
    obtain ⟨b, v⟩ := c
    rw [Memory.putAll, ih, List.reverse_cons, List.find?_append]
    cases List.find? (fun c => c.1 == a) ws.reverse with
    | some e => rfl
    | none =>
      simp only [Option.none_or, Memory.readD_put_some, List.find?]
      by_cases h : a = b
      · subst h; simp
      · rw [if_neg h, show (b == a) = false by simpa using Ne.symm h]

/-! Which entries a write leaves. -/

theorem Memory.mem_erase {m : List Host.Cell} {a : Nat} {c : Host.Cell} (h : c ∈ Memory.erase m a) : c ∈ m := by
  induction m with
  | nil => simp [Memory.erase] at h
  | cons d m ih =>
    obtain ⟨k, w⟩ := d
    by_cases hk : a = k
    · simp only [Memory.erase, hk, if_true] at h
      exact List.mem_cons_of_mem _ (ih (by rw [hk]; exact h))
    · simp only [Memory.erase, hk, if_false, List.mem_cons] at h ⊢
      exact h.imp id ih

theorem Memory.mem_insert {m : List Host.Cell} {a : Nat} {v : Byte} {c : Host.Cell}
    (h : c ∈ Memory.insert m a v) : c = (a, v) ∨ c ∈ m := by
  induction m with
  | nil => simpa [Memory.insert] using h
  | cons d m ih =>
    obtain ⟨k, w⟩ := d
    by_cases hlt : a < k
    · simpa [Memory.insert, hlt] using h
    · simp only [Memory.insert, hlt, if_false, List.mem_cons] at h ⊢
      rcases h with h | h
      · exact .inr (.inl h)
      · exact (ih h).imp id .inr

/-- Every entry after a write is the one written or was there before. -/
theorem Memory.mem_put {d : Option Byte} {m : List Host.Cell} {a : Nat} {v : Byte} {c : Host.Cell}
    (h : c ∈ Memory.put d m a v) : c = (a, v) ∨ c ∈ m := by
  unfold Memory.put at h
  split at h
  · exact .inr (Memory.mem_erase h)
  · exact (Memory.mem_insert h).imp id Memory.mem_erase

theorem Memory.mem_putAll {d : Option Byte} {ws m : List Host.Cell} {c : Host.Cell}
    (h : c ∈ Memory.putAll d m ws) : c ∈ ws ∨ c ∈ m := by
  induction ws generalizing m with
  | nil => exact .inr h
  | cons w ws ih =>
    obtain ⟨k, v⟩ := w
    rcases ih h with h | h
    · exact .inl (List.mem_cons_of_mem _ h)
    · rcases Memory.mem_put h with h | h
      · exact .inl (h ▸ List.mem_cons_self)
      · exact .inr h

/-! The canonical form. -/

theorem Memory.risingFrom_mono {m : List Host.Cell} {lo lo' : Nat} (h : Memory.risingFrom lo m = true)
    (hle : lo' ≤ lo) : Memory.risingFrom lo' m = true := by
  cases m with
  | nil => rfl
  | cons c m =>
    obtain ⟨k, v⟩ := c
    simp only [Memory.risingFrom, Bool.and_eq_true, decide_eq_true_eq] at h ⊢
    exact ⟨Nat.lt_of_le_of_lt hle h.1, h.2⟩

theorem Memory.risingFrom_erase {m : List Host.Cell} {lo : Nat} (a : Nat) (h : Memory.risingFrom lo m = true) :
    Memory.risingFrom lo (Memory.erase m a) = true := by
  induction m generalizing lo with
  | nil => rfl
  | cons c m ih =>
    obtain ⟨k, v⟩ := c
    simp only [Memory.risingFrom, Bool.and_eq_true, decide_eq_true_eq] at h
    by_cases hk : a = k
    · subst hk
      simp only [Memory.erase, if_true]
      exact Memory.risingFrom_mono (ih h.2) (Nat.le_of_lt h.1)
    · simp only [Memory.erase, hk, if_false, Memory.risingFrom, Bool.and_eq_true, decide_eq_true_eq]
      exact ⟨h.1, ih h.2⟩

theorem Memory.rising_erase {m : List Host.Cell} (a : Nat) (h : Memory.rising m = true) :
    Memory.rising (Memory.erase m a) = true := by
  induction m with
  | nil => rfl
  | cons c m ih =>
    obtain ⟨k, v⟩ := c
    by_cases hk : a = k
    · simp only [Memory.erase, hk, if_true]
      refine hk ▸ ih ?_
      cases m with
      | nil => rfl
      | cons d m =>
        obtain ⟨j, w⟩ := d
        simp only [Memory.rising, Memory.risingFrom, Bool.and_eq_true] at h
        exact h.2
    · simp only [Memory.erase, hk, if_false, Memory.rising]
      exact Memory.risingFrom_erase a h

theorem Memory.risingFrom_insert {m : List Host.Cell} {lo a : Nat} (v : Byte) (hlo : lo < a)
    (h : Memory.risingFrom lo m = true) (hm : Memory.read? m a = none) :
    Memory.risingFrom lo (Memory.insert m a v) = true := by
  induction m generalizing lo with
  | nil => simp [Memory.insert, Memory.risingFrom, hlo]
  | cons c m ih =>
    obtain ⟨k, w⟩ := c
    simp only [Memory.risingFrom, Bool.and_eq_true, decide_eq_true_eq] at h
    by_cases hk : a = k
    · simp [Memory.read?, hk] at hm
    · simp only [Memory.read?, hk, if_false] at hm
      by_cases hlt : a < k
      · simp [Memory.insert, Memory.risingFrom, hlt, hlo, h.2]
      · simp only [Memory.insert, hlt, if_false, Memory.risingFrom, Bool.and_eq_true, decide_eq_true_eq]
        exact ⟨h.1, ih (by omega) h.2 hm⟩

theorem Memory.rising_insert {m : List Host.Cell} {a : Nat} (v : Byte) (h : Memory.rising m = true)
    (hm : Memory.read? m a = none) : Memory.rising (Memory.insert m a v) = true := by
  cases m with
  | nil => rfl
  | cons c m =>
    obtain ⟨k, w⟩ := c
    by_cases hk : a = k
    · simp [Memory.read?, hk] at hm
    · simp only [Memory.read?, hk, if_false] at hm
      by_cases hlt : a < k
      · simp only [Memory.insert, hlt, if_true, Memory.rising, Memory.risingFrom, Bool.and_eq_true,
          decide_eq_true_eq, true_and]
        exact h
      · simp only [Memory.insert, hlt, if_false, Memory.rising]
        exact Memory.risingFrom_insert v (by omega) h hm

/-- A write keeps the canonical form. -/
theorem Memory.wf_put (d : Option Byte) (m : List Host.Cell) (a : Nat) (v : Byte) (h : Memory.wf d m = true) :
    Memory.wf d (Memory.put d m a v) = true := by
  simp only [Memory.wf, Bool.and_eq_true, List.all_eq_true, decide_eq_true_eq] at h ⊢
  have he := Memory.rising_erase a h.1
  unfold Memory.put
  split
  · exact ⟨he, fun c hc => h.2 c (Memory.mem_erase hc)⟩
  · rename_i hv
    refine ⟨Memory.rising_insert v he (by simp [Memory.read?_erase]), fun c hc => ?_⟩
    rcases Memory.mem_insert hc with rfl | hc
    · exact hv
    · exact h.2 c (Memory.mem_erase hc)

/-- Several writes keep the canonical form. -/
theorem Memory.wf_putAll (d : Option Byte) (ws m : List Host.Cell) (h : Memory.wf d m = true) :
    Memory.wf d (Memory.putAll d m ws) = true := by
  induction ws generalizing m with
  | nil => exact h
  | cons w ws ih => exact ih _ (Memory.wf_put d m w.1 w.2 h)

/-! Equal canonical memories are equal data: nothing an entry says can be said by another list. -/

theorem Memory.read?_of_risingFrom {m : List Host.Cell} {lo a : Nat} (h : Memory.risingFrom lo m = true)
    (ha : a ≤ lo) : Memory.read? m a = none := by
  induction m generalizing lo with
  | nil => rfl
  | cons c m ih =>
    obtain ⟨k, v⟩ := c
    simp only [Memory.risingFrom, Bool.and_eq_true, decide_eq_true_eq] at h
    have hk : a ≠ k := by omega
    simp only [Memory.read?, hk, if_false]
    exact ih h.2 (by omega)

/-- Two lists with rising addresses that list the same byte at every address are the same list. -/
theorem Memory.ext_of_rising {m n : List Host.Cell} (hm : Memory.rising m = true) (hn : Memory.rising n = true)
    (h : ∀ a, Memory.read? m a = Memory.read? n a) : m = n := by
  induction m generalizing n with
  | nil =>
    cases n with
    | nil => rfl
    | cons c n =>
      obtain ⟨k, v⟩ := c
      have := h k
      simp [Memory.read?] at this
  | cons c m ih =>
    obtain ⟨k, v⟩ := c
    cases n with
    | nil =>
      have := h k
      simp [Memory.read?] at this
    | cons d n =>
      obtain ⟨j, w⟩ := d
      have hk := h k
      have hj := h j
      simp only [Memory.read?, if_true] at hk hj
      have hkj : k = j := by
        rcases Nat.lt_trichotomy k j with hlt | heq | hgt
        · rw [if_neg (Nat.ne_of_lt hlt), Memory.read?_of_risingFrom hn (Nat.le_of_lt hlt)] at hk
          cases hk
        · exact heq
        · rw [if_neg (Nat.ne_of_lt hgt), Memory.read?_of_risingFrom hm (Nat.le_of_lt hgt)] at hj
          cases hj
      subst hkj
      simp only [if_true, Option.some.injEq] at hk
      subst hk
      have htail : m = n := by
        refine ih ?_ ?_ fun a => ?_
        · cases m with
          | nil => rfl
          | cons e m =>
            simp only [Memory.rising, Memory.risingFrom, Bool.and_eq_true] at hm ⊢
            exact hm.2
        · cases n with
          | nil => rfl
          | cons e n =>
            simp only [Memory.rising, Memory.risingFrom, Bool.and_eq_true] at hn ⊢
            exact hn.2
        · by_cases ha : a = k
          · subst ha
            rw [Memory.read?_of_risingFrom hm (Nat.le_refl a), Memory.read?_of_risingFrom hn (Nat.le_refl a)]
          · have := h a
            simpa [Memory.read?, ha] using this
      rw [htail]

end Sys2Proof.Machine
end

