-- ==== Sys2Proof/Laws/State.lean ====
section
/-! SUPPORT. One lemma per field per update: what each field of the state is after each named update. All hold by rfl. -/

namespace Sys2Proof.Machine

@[simp] theorem State.setA_a (s : State) (v : Byte) : (s.setA v).a = v := rfl
@[simp] theorem State.setA_x (s : State) (v : Byte) : (s.setA v).x = s.x := rfl
@[simp] theorem State.setA_sp (s : State) (v : Byte) : (s.setA v).sp = s.sp := rfl
@[simp] theorem State.setA_f (s : State) (v : Byte) : (s.setA v).f = s.f := rfl
@[simp] theorem State.setA_pc (s : State) (v : Byte) : (s.setA v).pc = s.pc := rfl
@[simp] theorem State.setA_halted (s : State) (v : Byte) : (s.setA v).halted = s.halted := rfl
@[simp] theorem State.setA_ram (s : State) (v : Byte) : (s.setA v).ram = s.ram := rfl
@[simp] theorem State.setA_regs (s : State) (v : Byte) : (s.setA v).regs = s.regs := rfl
@[simp] theorem State.setA_rom (s : State) (v : Byte) : (s.setA v).rom = s.rom := rfl
@[simp] theorem State.setA_wdt (s : State) (v : Byte) : (s.setA v).wdt = s.wdt := rfl
@[simp] theorem State.setA_irqs (s : State) (v : Byte) : (s.setA v).irqs = s.irqs := rfl
@[simp] theorem State.setA_bus (s : State) (v : Byte) : (s.setA v).bus = s.bus := rfl
@[simp] theorem State.setA_spare (s : State) (v : Byte) : (s.setA v).spare = s.spare := rfl
@[simp] theorem State.setA_epoch (s : State) (v : Byte) : (s.setA v).epoch = s.epoch := rfl
@[simp] theorem State.setA_fresh (s : State) (v : Byte) : (s.setA v).fresh = s.fresh := rfl
@[simp] theorem State.setA_profile (s : State) (v : Byte) : (s.setA v).profile = s.profile := rfl

@[simp] theorem State.setX_a (s : State) (v : Byte) : (s.setX v).a = s.a := rfl
@[simp] theorem State.setX_x (s : State) (v : Byte) : (s.setX v).x = v := rfl
@[simp] theorem State.setX_sp (s : State) (v : Byte) : (s.setX v).sp = s.sp := rfl
@[simp] theorem State.setX_f (s : State) (v : Byte) : (s.setX v).f = s.f := rfl
@[simp] theorem State.setX_pc (s : State) (v : Byte) : (s.setX v).pc = s.pc := rfl
@[simp] theorem State.setX_halted (s : State) (v : Byte) : (s.setX v).halted = s.halted := rfl
@[simp] theorem State.setX_ram (s : State) (v : Byte) : (s.setX v).ram = s.ram := rfl
@[simp] theorem State.setX_regs (s : State) (v : Byte) : (s.setX v).regs = s.regs := rfl
@[simp] theorem State.setX_rom (s : State) (v : Byte) : (s.setX v).rom = s.rom := rfl
@[simp] theorem State.setX_wdt (s : State) (v : Byte) : (s.setX v).wdt = s.wdt := rfl
@[simp] theorem State.setX_irqs (s : State) (v : Byte) : (s.setX v).irqs = s.irqs := rfl
@[simp] theorem State.setX_bus (s : State) (v : Byte) : (s.setX v).bus = s.bus := rfl
@[simp] theorem State.setX_spare (s : State) (v : Byte) : (s.setX v).spare = s.spare := rfl
@[simp] theorem State.setX_epoch (s : State) (v : Byte) : (s.setX v).epoch = s.epoch := rfl
@[simp] theorem State.setX_fresh (s : State) (v : Byte) : (s.setX v).fresh = s.fresh := rfl
@[simp] theorem State.setX_profile (s : State) (v : Byte) : (s.setX v).profile = s.profile := rfl

@[simp] theorem State.setSp_a (s : State) (v : Byte) : (s.setSp v).a = s.a := rfl
@[simp] theorem State.setSp_x (s : State) (v : Byte) : (s.setSp v).x = s.x := rfl
@[simp] theorem State.setSp_sp (s : State) (v : Byte) : (s.setSp v).sp = v := rfl
@[simp] theorem State.setSp_f (s : State) (v : Byte) : (s.setSp v).f = s.f := rfl
@[simp] theorem State.setSp_pc (s : State) (v : Byte) : (s.setSp v).pc = s.pc := rfl
@[simp] theorem State.setSp_halted (s : State) (v : Byte) : (s.setSp v).halted = s.halted := rfl
@[simp] theorem State.setSp_ram (s : State) (v : Byte) : (s.setSp v).ram = s.ram := rfl
@[simp] theorem State.setSp_regs (s : State) (v : Byte) : (s.setSp v).regs = s.regs := rfl
@[simp] theorem State.setSp_rom (s : State) (v : Byte) : (s.setSp v).rom = s.rom := rfl
@[simp] theorem State.setSp_wdt (s : State) (v : Byte) : (s.setSp v).wdt = s.wdt := rfl
@[simp] theorem State.setSp_irqs (s : State) (v : Byte) : (s.setSp v).irqs = s.irqs := rfl
@[simp] theorem State.setSp_bus (s : State) (v : Byte) : (s.setSp v).bus = s.bus := rfl
@[simp] theorem State.setSp_spare (s : State) (v : Byte) : (s.setSp v).spare = s.spare := rfl
@[simp] theorem State.setSp_epoch (s : State) (v : Byte) : (s.setSp v).epoch = s.epoch := rfl
@[simp] theorem State.setSp_fresh (s : State) (v : Byte) : (s.setSp v).fresh = s.fresh := rfl
@[simp] theorem State.setSp_profile (s : State) (v : Byte) : (s.setSp v).profile = s.profile := rfl

@[simp] theorem State.setPc_a (s : State) (v : Word) : (s.setPc v).a = s.a := rfl
@[simp] theorem State.setPc_x (s : State) (v : Word) : (s.setPc v).x = s.x := rfl
@[simp] theorem State.setPc_sp (s : State) (v : Word) : (s.setPc v).sp = s.sp := rfl
@[simp] theorem State.setPc_f (s : State) (v : Word) : (s.setPc v).f = s.f := rfl
@[simp] theorem State.setPc_pc (s : State) (v : Word) : (s.setPc v).pc = v := rfl
@[simp] theorem State.setPc_halted (s : State) (v : Word) : (s.setPc v).halted = s.halted := rfl
@[simp] theorem State.setPc_ram (s : State) (v : Word) : (s.setPc v).ram = s.ram := rfl
@[simp] theorem State.setPc_regs (s : State) (v : Word) : (s.setPc v).regs = s.regs := rfl
@[simp] theorem State.setPc_rom (s : State) (v : Word) : (s.setPc v).rom = s.rom := rfl
@[simp] theorem State.setPc_wdt (s : State) (v : Word) : (s.setPc v).wdt = s.wdt := rfl
@[simp] theorem State.setPc_irqs (s : State) (v : Word) : (s.setPc v).irqs = s.irqs := rfl
@[simp] theorem State.setPc_bus (s : State) (v : Word) : (s.setPc v).bus = s.bus := rfl
@[simp] theorem State.setPc_spare (s : State) (v : Word) : (s.setPc v).spare = s.spare := rfl
@[simp] theorem State.setPc_epoch (s : State) (v : Word) : (s.setPc v).epoch = s.epoch := rfl
@[simp] theorem State.setPc_fresh (s : State) (v : Word) : (s.setPc v).fresh = s.fresh := rfl
@[simp] theorem State.setPc_profile (s : State) (v : Word) : (s.setPc v).profile = s.profile := rfl

@[simp] theorem State.advance_a (s : State) (n : Word) : (s.advance n).a = s.a := rfl
@[simp] theorem State.advance_x (s : State) (n : Word) : (s.advance n).x = s.x := rfl
@[simp] theorem State.advance_sp (s : State) (n : Word) : (s.advance n).sp = s.sp := rfl
@[simp] theorem State.advance_f (s : State) (n : Word) : (s.advance n).f = s.f := rfl
@[simp] theorem State.advance_pc (s : State) (n : Word) : (s.advance n).pc = s.pc + n := rfl
@[simp] theorem State.advance_halted (s : State) (n : Word) : (s.advance n).halted = s.halted := rfl
@[simp] theorem State.advance_ram (s : State) (n : Word) : (s.advance n).ram = s.ram := rfl
@[simp] theorem State.advance_regs (s : State) (n : Word) : (s.advance n).regs = s.regs := rfl
@[simp] theorem State.advance_rom (s : State) (n : Word) : (s.advance n).rom = s.rom := rfl
@[simp] theorem State.advance_wdt (s : State) (n : Word) : (s.advance n).wdt = s.wdt := rfl
@[simp] theorem State.advance_irqs (s : State) (n : Word) : (s.advance n).irqs = s.irqs := rfl
@[simp] theorem State.advance_bus (s : State) (n : Word) : (s.advance n).bus = s.bus := rfl
@[simp] theorem State.advance_spare (s : State) (n : Word) : (s.advance n).spare = s.spare := rfl
@[simp] theorem State.advance_epoch (s : State) (n : Word) : (s.advance n).epoch = s.epoch := rfl
@[simp] theorem State.advance_fresh (s : State) (n : Word) : (s.advance n).fresh = s.fresh := rfl
@[simp] theorem State.advance_profile (s : State) (n : Word) : (s.advance n).profile = s.profile := rfl

@[simp] theorem State.setFlags_a (s : State) (v : Byte) : (s.setFlags v).a = s.a := rfl
@[simp] theorem State.setFlags_x (s : State) (v : Byte) : (s.setFlags v).x = s.x := rfl
@[simp] theorem State.setFlags_sp (s : State) (v : Byte) : (s.setFlags v).sp = s.sp := rfl
@[simp] theorem State.setFlags_f (s : State) (v : Byte) : (s.setFlags v).f = v := rfl
@[simp] theorem State.setFlags_pc (s : State) (v : Byte) : (s.setFlags v).pc = s.pc := rfl
@[simp] theorem State.setFlags_halted (s : State) (v : Byte) : (s.setFlags v).halted = s.halted := rfl
@[simp] theorem State.setFlags_ram (s : State) (v : Byte) : (s.setFlags v).ram = s.ram := rfl
@[simp] theorem State.setFlags_regs (s : State) (v : Byte) : (s.setFlags v).regs = s.regs := rfl
@[simp] theorem State.setFlags_rom (s : State) (v : Byte) : (s.setFlags v).rom = s.rom := rfl
@[simp] theorem State.setFlags_wdt (s : State) (v : Byte) : (s.setFlags v).wdt = s.wdt := rfl
@[simp] theorem State.setFlags_irqs (s : State) (v : Byte) : (s.setFlags v).irqs = s.irqs := rfl
@[simp] theorem State.setFlags_bus (s : State) (v : Byte) : (s.setFlags v).bus = s.bus := rfl
@[simp] theorem State.setFlags_spare (s : State) (v : Byte) : (s.setFlags v).spare = s.spare := rfl
@[simp] theorem State.setFlags_epoch (s : State) (v : Byte) : (s.setFlags v).epoch = s.epoch := rfl
@[simp] theorem State.setFlags_fresh (s : State) (v : Byte) : (s.setFlags v).fresh = s.fresh := rfl
@[simp] theorem State.setFlags_profile (s : State) (v : Byte) : (s.setFlags v).profile = s.profile := rfl

@[simp] theorem State.writeF_a (s : State) (v : Byte) : (s.writeF v).a = s.a := rfl
@[simp] theorem State.writeF_x (s : State) (v : Byte) : (s.writeF v).x = s.x := rfl
@[simp] theorem State.writeF_sp (s : State) (v : Byte) : (s.writeF v).sp = s.sp := rfl
@[simp] theorem State.writeF_f (s : State) (v : Byte) : (s.writeF v).f = v := rfl
@[simp] theorem State.writeF_pc (s : State) (v : Byte) : (s.writeF v).pc = s.pc := rfl
@[simp] theorem State.writeF_halted (s : State) (v : Byte) : (s.writeF v).halted = s.halted := rfl
@[simp] theorem State.writeF_ram (s : State) (v : Byte) : (s.writeF v).ram = s.ram := rfl
@[simp] theorem State.writeF_regs (s : State) (v : Byte) : (s.writeF v).regs = s.regs := rfl
@[simp] theorem State.writeF_rom (s : State) (v : Byte) : (s.writeF v).rom = s.rom := rfl
@[simp] theorem State.writeF_wdt (s : State) (v : Byte) : (s.writeF v).wdt = s.wdt := rfl
@[simp] theorem State.writeF_irqs (s : State) (v : Byte) : (s.writeF v).irqs = s.irqs := rfl
@[simp] theorem State.writeF_bus (s : State) (v : Byte) : (s.writeF v).bus = s.bus := rfl
@[simp] theorem State.writeF_spare (s : State) (v : Byte) : (s.writeF v).spare = s.spare ||| (v &&& undefinedBits) := rfl
@[simp] theorem State.writeF_epoch (s : State) (v : Byte) : (s.writeF v).epoch = s.epoch := rfl
@[simp] theorem State.writeF_fresh (s : State) (v : Byte) : (s.writeF v).fresh = s.fresh := rfl
@[simp] theorem State.writeF_profile (s : State) (v : Byte) : (s.writeF v).profile = s.profile := rfl

@[simp] theorem State.setHalted_a (s : State) : (s.setHalted).a = s.a := rfl
@[simp] theorem State.setHalted_x (s : State) : (s.setHalted).x = s.x := rfl
@[simp] theorem State.setHalted_sp (s : State) : (s.setHalted).sp = s.sp := rfl
@[simp] theorem State.setHalted_f (s : State) : (s.setHalted).f = s.f := rfl
@[simp] theorem State.setHalted_pc (s : State) : (s.setHalted).pc = s.pc := rfl
@[simp] theorem State.setHalted_halted (s : State) : (s.setHalted).halted = true := rfl
@[simp] theorem State.setHalted_ram (s : State) : (s.setHalted).ram = s.ram := rfl
@[simp] theorem State.setHalted_regs (s : State) : (s.setHalted).regs = s.regs := rfl
@[simp] theorem State.setHalted_rom (s : State) : (s.setHalted).rom = s.rom := rfl
@[simp] theorem State.setHalted_wdt (s : State) : (s.setHalted).wdt = s.wdt := rfl
@[simp] theorem State.setHalted_irqs (s : State) : (s.setHalted).irqs = s.irqs := rfl
@[simp] theorem State.setHalted_bus (s : State) : (s.setHalted).bus = s.bus := rfl
@[simp] theorem State.setHalted_spare (s : State) : (s.setHalted).spare = s.spare := rfl
@[simp] theorem State.setHalted_epoch (s : State) : (s.setHalted).epoch = s.epoch := rfl
@[simp] theorem State.setHalted_fresh (s : State) : (s.setHalted).fresh = s.fresh := rfl
@[simp] theorem State.setHalted_profile (s : State) : (s.setHalted).profile = s.profile := rfl

@[simp] theorem State.pollIrq_a (s : State) : (s.pollIrq).a = s.a := rfl
@[simp] theorem State.pollIrq_x (s : State) : (s.pollIrq).x = s.x := rfl
@[simp] theorem State.pollIrq_sp (s : State) : (s.pollIrq).sp = s.sp := rfl
@[simp] theorem State.pollIrq_f (s : State) : (s.pollIrq).f = s.f := rfl
@[simp] theorem State.pollIrq_pc (s : State) : (s.pollIrq).pc = s.pc := rfl
@[simp] theorem State.pollIrq_halted (s : State) : (s.pollIrq).halted = s.halted := rfl
@[simp] theorem State.pollIrq_ram (s : State) : (s.pollIrq).ram = s.ram := rfl
@[simp] theorem State.pollIrq_regs (s : State) : (s.pollIrq).regs = s.regs := rfl
@[simp] theorem State.pollIrq_rom (s : State) : (s.pollIrq).rom = s.rom := rfl
@[simp] theorem State.pollIrq_wdt (s : State) : (s.pollIrq).wdt = s.wdt := rfl
@[simp] theorem State.pollIrq_irqs (s : State) : (s.pollIrq).irqs = s.irqs.tail := rfl
@[simp] theorem State.pollIrq_bus (s : State) : (s.pollIrq).bus = s.bus := rfl
@[simp] theorem State.pollIrq_spare (s : State) : (s.pollIrq).spare = s.spare := rfl
@[simp] theorem State.pollIrq_epoch (s : State) : (s.pollIrq).epoch = s.epoch := rfl
@[simp] theorem State.pollIrq_fresh (s : State) : (s.pollIrq).fresh = s.fresh := rfl
@[simp] theorem State.pollIrq_profile (s : State) : (s.pollIrq).profile = s.profile := rfl

@[simp] theorem State.draw_a (s : State) : (s.draw).a = s.a := rfl
@[simp] theorem State.draw_x (s : State) : (s.draw).x = s.x := rfl
@[simp] theorem State.draw_sp (s : State) : (s.draw).sp = s.sp := rfl
@[simp] theorem State.draw_f (s : State) : (s.draw).f = s.f := rfl
@[simp] theorem State.draw_pc (s : State) : (s.draw).pc = s.pc := rfl
@[simp] theorem State.draw_halted (s : State) : (s.draw).halted = s.halted := rfl
@[simp] theorem State.draw_ram (s : State) : (s.draw).ram = s.ram := rfl
@[simp] theorem State.draw_regs (s : State) : (s.draw).regs = s.regs := rfl
@[simp] theorem State.draw_rom (s : State) : (s.draw).rom = s.rom := rfl
@[simp] theorem State.draw_wdt (s : State) : (s.draw).wdt = s.wdt := rfl
@[simp] theorem State.draw_irqs (s : State) : (s.draw).irqs = s.irqs := rfl
@[simp] theorem State.draw_bus (s : State) : (s.draw).bus = s.bus := rfl
@[simp] theorem State.draw_spare (s : State) : (s.draw).spare = s.spare := rfl
@[simp] theorem State.draw_epoch (s : State) : (s.draw).epoch = s.epoch := rfl
@[simp] theorem State.draw_fresh (s : State) : (s.draw).fresh = s.fresh + 1 := rfl
@[simp] theorem State.draw_profile (s : State) : (s.draw).profile = s.profile := rfl

@[simp] theorem State.logAccess_a (s : State) (e : RegAccess) : (s.logAccess e).a = s.a := rfl
@[simp] theorem State.logAccess_x (s : State) (e : RegAccess) : (s.logAccess e).x = s.x := rfl
@[simp] theorem State.logAccess_sp (s : State) (e : RegAccess) : (s.logAccess e).sp = s.sp := rfl
@[simp] theorem State.logAccess_f (s : State) (e : RegAccess) : (s.logAccess e).f = s.f := rfl
@[simp] theorem State.logAccess_pc (s : State) (e : RegAccess) : (s.logAccess e).pc = s.pc := rfl
@[simp] theorem State.logAccess_halted (s : State) (e : RegAccess) : (s.logAccess e).halted = s.halted := rfl
@[simp] theorem State.logAccess_ram (s : State) (e : RegAccess) : (s.logAccess e).ram = s.ram := rfl
@[simp] theorem State.logAccess_regs (s : State) (e : RegAccess) : (s.logAccess e).regs = s.regs := rfl
@[simp] theorem State.logAccess_rom (s : State) (e : RegAccess) : (s.logAccess e).rom = s.rom := rfl
@[simp] theorem State.logAccess_wdt (s : State) (e : RegAccess) : (s.logAccess e).wdt = s.wdt := rfl
@[simp] theorem State.logAccess_irqs (s : State) (e : RegAccess) : (s.logAccess e).irqs = s.irqs := rfl
@[simp] theorem State.logAccess_bus (s : State) (e : RegAccess) : (s.logAccess e).bus = e :: s.bus := rfl
@[simp] theorem State.logAccess_spare (s : State) (e : RegAccess) : (s.logAccess e).spare = s.spare := rfl
@[simp] theorem State.logAccess_epoch (s : State) (e : RegAccess) : (s.logAccess e).epoch = s.epoch := rfl
@[simp] theorem State.logAccess_fresh (s : State) (e : RegAccess) : (s.logAccess e).fresh = s.fresh := rfl
@[simp] theorem State.logAccess_profile (s : State) (e : RegAccess) : (s.logAccess e).profile = s.profile := rfl

end Sys2Proof.Machine
end

