-- ==== Sys2Proof/Laws/Ops.lean ====
section
/-! SUPPORT. One lemma for each shared operation that says everything it can do, for proofs to cite instead of unfolding the operation. -/

namespace Sys2Proof.Machine

/-! Outcomes. -/

@[simp] theorem ofExcept_ok (s : State) : ofExcept (.ok s) = .next s := rfl

@[simp] theorem ofExcept_error (r : Refusal) : ofExcept (.error r) = .refused r := rfl

theorem ofExcept_eq_next {e : Except Refusal State} {t : State} : ofExcept e = .next t ↔ e = .ok t := by
  cases e <;> simp [ofExcept]

/-! RAM. -/

/-- Reading a RAM byte after the byte at `key` was written. -/
theorem ramByte_put (s : State) (key : Nat) (v : Byte) (j : Nat) :
    ramByte { s with ram := Memory.put none s.ram key v } j = if j = key then v else ramByte s j := by
  simp [ramByte, Memory.readD_put_none]

/-- A RAM byte depends on the RAM and the epoch alone. -/
theorem ramByte_congr {s t : State} (hr : t.ram = s.ram) (he : t.epoch = s.epoch) (j : Nat) :
    ramByte t j = ramByte s j := by simp [ramByte, hr, he]

theorem readRam_of_ok {s : State} {page : Nat} {addr : Byte} (h : ramOk s.profile page addr = true) :
    readRam s page addr = .ok (ramByte s (page * 256 + addr.toNat)) := by simp [readRam, h]

theorem readRam_of_not_ok {s : State} {page : Nat} {addr : Byte} (h : ramOk s.profile page addr = false) :
    readRam s page addr = .error (.ramUnimplemented page addr) := by simp [readRam, h]

theorem readRam_eq_ok {s : State} {page : Nat} {addr v : Byte} :
    readRam s page addr = .ok v ↔
      ramOk s.profile page addr = true ∧ v = ramByte s (page * 256 + addr.toNat) := by
  cases h : ramOk s.profile page addr <;> simp [readRam, h, eq_comm]

theorem writeRam_of_ok {s : State} {page : Nat} {addr : Byte} (v : Byte) (h : ramOk s.profile page addr = true) :
    writeRam s page addr v = .ok { s with ram := Memory.put none s.ram (page * 256 + addr.toNat) v } := by
  simp [writeRam, h]

theorem writeRam_of_not_ok {s : State} {page : Nat} {addr : Byte} (v : Byte)
    (h : ramOk s.profile page addr = false) :
    writeRam s page addr v = .error (.ramUnimplemented page addr) := by simp [writeRam, h]

theorem writeRam_eq_ok {s t : State} {page : Nat} {addr v : Byte} :
    writeRam s page addr v = .ok t ↔
      ramOk s.profile page addr = true ∧
        t = { s with ram := Memory.put none s.ram (page * 256 + addr.toNat) v } := by
  cases h : ramOk s.profile page addr <;> simp [writeRam, h, eq_comm]

theorem ramRd_eq_ok {s : State} {addr v : Byte} :
    ramRd s addr = .ok v ↔
      ramOk s.profile (curPage s) addr = true ∧ v = ramByte s (curPage s * 256 + addr.toNat) := readRam_eq_ok

theorem ramWr_eq_ok {s t : State} {addr v : Byte} :
    ramWr s addr v = .ok t ↔
      ramOk s.profile (curPage s) addr = true ∧
        t = { s with ram := Memory.put none s.ram (curPage s * 256 + addr.toNat) v } := writeRam_eq_ok

/-- The current page depends on the profile, the register space and F.PMODE alone. -/
theorem curPage_congr {s t : State} (hp : t.profile = s.profile) (hr : t.regs = s.regs)
    (hf : flagPMODE t.f = flagPMODE s.f) : curPage t = curPage s := by
  simp [curPage, regByte, hp, hr, hf]

theorem stackPage_congr {s t : State} (hp : t.profile = s.profile) : stackPage t = stackPage s := by
  simp [stackPage, hp]

/-! The stack. -/

theorem push_eq_ok {s t : State} {v : Byte} :
    push s v = .ok t ↔
      ramOk s.profile (stackPage s) s.sp = true ∧
        t = { s with ram := Memory.put none s.ram (stackPage s * 256 + s.sp.toNat) v, sp := s.sp + 1 } := by
  cases h : ramOk s.profile (stackPage s) s.sp <;> simp [push, writeRam, h, State.setSp, eq_comm]

theorem push_of_ok {s : State} {v : Byte} (h : ramOk s.profile (stackPage s) s.sp = true) :
    push s v =
      .ok { s with ram := Memory.put none s.ram (stackPage s * 256 + s.sp.toNat) v, sp := s.sp + 1 } :=
  push_eq_ok.2 ⟨h, rfl⟩

theorem push_of_not_ok {s : State} {v : Byte} (h : ramOk s.profile (stackPage s) s.sp = false) :
    push s v = .error (.ramUnimplemented (stackPage s) s.sp) := by simp only [push, writeRam_of_not_ok _ h]

theorem pop_eq_ok {s t : State} {v : Byte} :
    pop s = .ok (v, t) ↔
      ramOk s.profile (stackPage s) (s.sp - 1) = true ∧
        v = ramByte s (stackPage s * 256 + (s.sp - 1).toNat) ∧ t = { s with sp := s.sp - 1 } := by
  cases h : ramOk s.profile (stackPage s) (s.sp - 1) with
  | false => simp only [pop, readRam_of_not_ok h, reduceCtorEq, false_and]
  | true =>
    simp only [pop, readRam_of_ok h, Except.ok.injEq, Prod.mk.injEq, true_and]
    exact ⟨fun h => ⟨h.1.symm, h.2.symm⟩, fun h => ⟨h.1.symm, h.2.symm⟩⟩

theorem pop_of_not_ok {s : State} (h : ramOk s.profile (stackPage s) (s.sp - 1) = false) :
    pop s = .error (.ramUnimplemented (stackPage s) (s.sp - 1)) := by
  simp only [pop, readRam_of_not_ok h]

theorem pop_of_ok {s : State} (h : ramOk s.profile (stackPage s) (s.sp - 1) = true) :
    pop s = .ok (ramByte s (stackPage s * 256 + (s.sp - 1).toNat), { s with sp := s.sp - 1 }) :=
  pop_eq_ok.2 ⟨h, rfl, rfl⟩

/-- A 16-bit push: both bytes implemented, the upper byte at SP, the lower above it, SP two higher. -/
theorem pushWord_eq_ok {s t : State} {w : Word} :
    pushWord s w = .ok t ↔
      ramOk s.profile (stackPage s) s.sp = true ∧ ramOk s.profile (stackPage s) (s.sp + 1) = true ∧
        t = { s with
          ram := Memory.put none
            (Memory.put none s.ram (stackPage s * 256 + s.sp.toNat) (w.extractLsb' 8 8))
            (stackPage s * 256 + (s.sp + 1).toNat) (w.extractLsb' 0 8),
          sp := s.sp + 1 + 1 } := by
  cases h : ramOk s.profile (stackPage s) s.sp with
  | false => simp [pushWord, push, writeRam, h]
  | true =>
    have h1 : push s (w.extractLsb' 8 8) = .ok { s with
        ram := Memory.put none s.ram (stackPage s * 256 + s.sp.toNat) (w.extractLsb' 8 8), sp := s.sp + 1 } :=
      push_eq_ok.2 ⟨h, rfl⟩
    simp only [pushWord, h1, push_eq_ok, true_and]
    rfl

/-- A 16-bit push is refused at the first byte of the two that is not implemented. -/
theorem pushWord_of_not_ok {s : State} {w : Word} :
    (ramOk s.profile (stackPage s) s.sp = false →
      pushWord s w = .error (.ramUnimplemented (stackPage s) s.sp)) ∧
    (ramOk s.profile (stackPage s) s.sp = true → ramOk s.profile (stackPage s) (s.sp + 1) = false →
      pushWord s w = .error (.ramUnimplemented (stackPage s) (s.sp + 1))) := by
  refine ⟨fun h => ?_, fun h h2 => ?_⟩
  · simp only [pushWord, push_of_not_ok h]
  · simp only [pushWord, push_of_ok h]
    exact push_of_not_ok h2

/-- A 16-bit pop: both bytes implemented, the lower byte below SP, the upper below it, SP two lower. -/
theorem popWord_eq_ok {s t : State} {w : Word} :
    popWord s = .ok (w, t) ↔
      ramOk s.profile (stackPage s) (s.sp - 1) = true ∧ ramOk s.profile (stackPage s) (s.sp - 1 - 1) = true ∧
        w = ramByte s (stackPage s * 256 + (s.sp - 1 - 1).toNat) ++ ramByte s (stackPage s * 256 + (s.sp - 1).toNat) ∧
        t = { s with sp := s.sp - 1 - 1 } := by
  cases h : ramOk s.profile (stackPage s) (s.sp - 1) with
  | false => simp only [popWord, pop_of_not_ok h, reduceCtorEq, Bool.false_eq_true, false_and]
  | true =>
    have h1 : pop s = .ok (ramByte s (stackPage s * 256 + (s.sp - 1).toNat), { s with sp := s.sp - 1 }) :=
      pop_eq_ok.2 ⟨h, rfl, rfl⟩
    cases h2 : ramOk s.profile (stackPage s) (s.sp - 1 - 1) with
    | false =>
      have h3 : pop { s with sp := s.sp - 1 } = .error (.ramUnimplemented (stackPage s) (s.sp - 1 - 1)) :=
        pop_of_not_ok h2
      simp only [popWord, h1, h3, reduceCtorEq, Bool.false_eq_true, false_and, and_false]
    | true =>
      have h3 : pop { s with sp := s.sp - 1 } =
          .ok (ramByte s (stackPage s * 256 + (s.sp - 1 - 1).toNat), { s with sp := s.sp - 1 - 1 }) :=
        pop_eq_ok.2 ⟨h2, rfl, rfl⟩
      simp only [popWord, h1, h3, Except.ok.injEq, Prod.mk.injEq, true_and]
      exact ⟨fun h => ⟨h.1.symm, h.2.symm⟩, fun h => ⟨h.1.symm, h.2.symm⟩⟩

/-- A 16-bit pop is refused at the first byte of the two that is not implemented. -/
theorem popWord_of_not_ok {s : State} :
    (ramOk s.profile (stackPage s) (s.sp - 1) = false →
      popWord s = .error (.ramUnimplemented (stackPage s) (s.sp - 1))) ∧
    (ramOk s.profile (stackPage s) (s.sp - 1) = true → ramOk s.profile (stackPage s) (s.sp - 1 - 1) = false →
      popWord s = .error (.ramUnimplemented (stackPage s) (s.sp - 1 - 1))) := by
  refine ⟨fun h => ?_, fun h h2 => ?_⟩
  · simp only [popWord, pop_of_not_ok h]
  · simp only [popWord, pop_of_ok h]
    rw [pop_of_not_ok (by exact h2)]
    rfl

/-! F as observed. -/

/-- Where no undefined bit has been 1 since reset, F is observed as it is stored and nothing is drawn. -/
theorem observeF_defined {s : State} (h : (s.spare ||| s.f) &&& undefinedBits = 0x00#8) :
    observeF s = (s.f, s) := by simp only [observeF, h, if_true]

/-- Observing F changes at most the count of free values. -/
theorem observeF_state (s : State) : (observeF s).2 = { s with fresh := (observeF s).2.fresh } := by
  unfold observeF; split <;> rfl

/-- The defined bits of F are observed as they are stored. -/
theorem observeF_bits (s : State) : (observeF s).1 &&& ~~~undefinedBits = s.f &&& ~~~undefinedBits := by
  unfold observeF undefinedBits
  split
  · rfl
  · ext i hi
    interval_cases i <;> simp

/-! Register space. -/

/-- Reading a register location after one was written. -/
theorem regByte_put (s : State) (loc : Nat) (v : Byte) (j : Nat) :
    regByte { s with regs := Memory.put (some 0x00#8) s.regs loc v } j = if j = loc then v else regByte s j := by
  simp [regByte, Memory.readD_put_some]

/-- A register-space read changes at most the record of accesses and the count of free values. -/
theorem regRd_state (s : State) (ea : Byte) :
    (regRd s ea).2 = { s with bus := (regRd s ea).2.bus, fresh := (regRd s ea).2.fresh } := by
  unfold regRd
  split
  · unfold observeF; split <;> rfl
  · split <;> rfl

/-- A register-space write changes at most the record of accesses and the stored bytes. -/
theorem regWr_state (s : State) (ea v : Byte) :
    regWr s ea v = { s with
      bus := ⟨.write, regLoc s.f ea, v⟩ :: s.bus,
      regs := if isFMirror s.profile ea then s.regs
        else Memory.put (some 0x00#8) s.regs (regLoc s.f ea) v } := by
  unfold regWr
  split
  · rfl
  · rfl

theorem regLoc_lt (f ea : Byte) : regLoc f ea < 512 := by
  have := ea.isLt
  unfold regLoc
  split <;> omega

/-! ROM. -/

theorem romRd_eq_ok {s : State} {addr : Word} {v : Byte} :
    romRd s addr = .ok v ↔ addr.toNat < s.profile.flashSize ∧ Memory.read? s.rom addr.toNat = some v := by
  by_cases h : addr.toNat < s.profile.flashSize
  · cases hr : Memory.read? s.rom addr.toNat <;> simp [romRd, h, hr]
  · simp [romRd, h]

theorem romRd_eq_error {s : State} {addr : Word} {r : Refusal} :
    romRd s addr = .error r ↔
      r = .romUnreadable addr ∧ (s.profile.flashSize ≤ addr.toNat ∨ Memory.read? s.rom addr.toNat = none) := by
  by_cases h : addr.toNat < s.profile.flashSize
  · cases hr : Memory.read? s.rom addr.toNat <;> simp [romRd, h, hr, Nat.not_le.2 h, eq_comm]
  · simp [romRd, h, Nat.le_of_not_lt h, eq_comm]

/-! Entry and return. -/

/-- The frame of an interrupt or a supervisor call: three implemented bytes, the return address upper byte first, F as it
is observed above it; F is 0x00, PC the target, SP three higher; nothing else changes but the count of free values. -/
theorem enterHandler_eq_ok {s t : State} {ret target : Word} :
    enterHandler s ret target = .ok t ↔
      ramOk s.profile (stackPage s) s.sp = true ∧ ramOk s.profile (stackPage s) (s.sp + 1) = true ∧
        ramOk s.profile (stackPage s) (s.sp + 1 + 1) = true ∧
        t = { s with
          ram := Memory.put none
            (Memory.put none
              (Memory.put none s.ram (stackPage s * 256 + s.sp.toNat) (ret.extractLsb' 8 8))
              (stackPage s * 256 + (s.sp + 1).toNat) (ret.extractLsb' 0 8))
            (stackPage s * 256 + (s.sp + 1 + 1).toNat) (observeF s).1,
          sp := s.sp + 1 + 1 + 1,
          f := 0x00#8, pc := target, fresh := (observeF s).2.fresh } := by
  unfold enterHandler
  cases hw : pushWord s ret with
  | error r =>
    have : ¬ ∃ u, pushWord s ret = .ok u := by simp [hw]
    simp only [reduceCtorEq, false_iff]
    rintro ⟨h1, h2, -⟩
    exact this ⟨_, pushWord_eq_ok.2 ⟨h1, h2, rfl⟩⟩
  | ok u =>
    obtain ⟨h1, h2, rfl⟩ := pushWord_eq_ok.1 hw
    simp only [h1, h2, true_and]
    generalize hu : ({ s with
          ram := Memory.put none
            (Memory.put none s.ram (stackPage s * 256 + s.sp.toNat) (ret.extractLsb' 8 8))
            (stackPage s * 256 + (s.sp + 1).toNat) (ret.extractLsb' 0 8),
          sp := s.sp + 1 + 1 } : State) = u
    have ho1 : (observeF u).1 = (observeF s).1 := by subst hu; unfold observeF; split <;> rfl
    have ho2 : (observeF u).2 = { u with fresh := (observeF s).2.fresh } := by
      subst hu; unfold observeF; split <;> rfl
    rw [ho1, ho2]
    cases h3 : ramOk s.profile (stackPage s) (s.sp + 1 + 1) with
    | false =>
      have : push { u with fresh := (observeF s).2.fresh } (observeF s).1 =
          .error (.ramUnimplemented (stackPage s) (s.sp + 1 + 1)) := by
        subst hu
        simp only [push]
        rw [writeRam_of_not_ok _ (by exact h3)]
        rfl
      simp [this]
    | true =>
      have : push { u with fresh := (observeF s).2.fresh } (observeF s).1 =
          .ok { s with
            ram := Memory.put none
              (Memory.put none
                (Memory.put none s.ram (stackPage s * 256 + s.sp.toNat) (ret.extractLsb' 8 8))
                (stackPage s * 256 + (s.sp + 1).toNat) (ret.extractLsb' 0 8))
              (stackPage s * 256 + (s.sp + 1 + 1).toNat) (observeF s).1,
            sp := s.sp + 1 + 1 + 1, fresh := (observeF s).2.fresh } := by
        subst hu
        exact push_eq_ok.2 ⟨h3, rfl⟩
      simp [this, State.writeF, State.setPc, eq_comm]

/-- The frame is refused at the first byte of the three that is not implemented. -/
theorem enterHandler_of_not_ok {s : State} {ret target : Word} :
    (ramOk s.profile (stackPage s) s.sp = false →
      enterHandler s ret target = .error (.ramUnimplemented (stackPage s) s.sp)) ∧
    (ramOk s.profile (stackPage s) s.sp = true → ramOk s.profile (stackPage s) (s.sp + 1) = false →
      enterHandler s ret target = .error (.ramUnimplemented (stackPage s) (s.sp + 1))) ∧
    (ramOk s.profile (stackPage s) s.sp = true → ramOk s.profile (stackPage s) (s.sp + 1) = true →
      ramOk s.profile (stackPage s) (s.sp + 1 + 1) = false →
      enterHandler s ret target = .error (.ramUnimplemented (stackPage s) (s.sp + 1 + 1))) := by
  refine ⟨fun h => ?_, fun h h2 => ?_, fun h h2 h3 => ?_⟩
  · simp only [enterHandler, pushWord_of_not_ok.1 h]
  · simp only [enterHandler, pushWord_of_not_ok.2 h h2]
  · simp only [enterHandler, (pushWord_eq_ok (w := ret)).2 ⟨h, h2, rfl⟩]
    generalize hu : ({ s with
        ram := Memory.put none
          (Memory.put none s.ram (stackPage s * 256 + s.sp.toNat) (ret.extractLsb' 8 8))
          (stackPage s * 256 + (s.sp + 1).toNat) (ret.extractLsb' 0 8),
        sp := s.sp + 1 + 1 } : State) = u
    rw [observeF_state u, push_of_not_ok (by subst hu; exact h3)]
    subst hu
    rfl

/-- `RETI`: three implemented bytes below SP; F, then the lower and the upper byte of PC; SP three lower. -/
theorem returnFromInterrupt_eq_ok {s t : State} :
    returnFromInterrupt s = .ok t ↔
      ramOk s.profile (stackPage s) (s.sp - 1) = true ∧ ramOk s.profile (stackPage s) (s.sp - 1 - 1) = true ∧
        ramOk s.profile (stackPage s) (s.sp - 1 - 1 - 1) = true ∧
        t = { s with
          sp := s.sp - 1 - 1 - 1,
          f := ramByte s (stackPage s * 256 + (s.sp - 1).toNat),
          spare := s.spare ||| (ramByte s (stackPage s * 256 + (s.sp - 1).toNat) &&& undefinedBits),
          pc := ramByte s (stackPage s * 256 + (s.sp - 1 - 1 - 1).toNat) ++
            ramByte s (stackPage s * 256 + (s.sp - 1 - 1).toNat) } := by
  unfold returnFromInterrupt
  cases h : ramOk s.profile (stackPage s) (s.sp - 1) with
  | false => simp only [pop_of_not_ok h, reduceCtorEq, Bool.false_eq_true, false_and]
  | true =>
    have h1 : pop s = .ok (ramByte s (stackPage s * 256 + (s.sp - 1).toNat), { s with sp := s.sp - 1 }) :=
      pop_eq_ok.2 ⟨h, rfl, rfl⟩
    simp only [h1, true_and]
    cases hw : popWord { s with sp := s.sp - 1 } with
    | error r =>
      simp only [reduceCtorEq, false_iff]
      rintro ⟨h2, h3, -⟩
      have := (popWord_eq_ok (s := { s with sp := s.sp - 1 })).2 ⟨h2, h3, rfl, rfl⟩
      rw [hw] at this
      cases this
    | ok p =>
      obtain ⟨w, u⟩ := p
      obtain ⟨h2, h3, rfl, rfl⟩ := popWord_eq_ok.1 hw
      have h2' : ramOk s.profile (stackPage s) (s.sp - 1 - 1) = true := h2
      have h3' : ramOk s.profile (stackPage s) (s.sp - 1 - 1 - 1) = true := h3
      simp only [h2', h3', true_and, Except.ok.injEq]
      exact eq_comm

/-- A supervisory routine runs only where the profile supplies one; then it ends with a `RETI`. -/
theorem sromCall_eq_ok {s t : State} :
    sromCall s = .ok t ↔
      s.profile.srom = true ∧ returnFromInterrupt (applySrom s (sromEffect s)) = .ok t := by
  cases h : s.profile.srom <;> simp [sromCall, h]

end Sys2Proof.Machine
end

