-- ==== Sys2Proof/Laws/Forms.lean ====
section
/-! SUPPORT. One lemma for each operand form: the next state it answers, exactly when it answers one. -/

namespace Sys2Proof.Machine

theorem accRam_eq_next {op : BinOp} {ea : Byte} {s t : State} :
    accRam op ea s = .next t ↔ CurOk s ea ∧ t = accResult op (curByte s ea) s := by
  cases h : ramOk s.profile (curPage s) ea with
  | false => simp [accRam, ramRd, CurOk, h, readRam]
  | true => simp [accRam, ramRd, CurOk, h, readRam, curByte, curKey, eq_comm]

theorem ramBin_eq_next {op : BinOp} {ea v : Byte} {n : Word} {s t : State} :
    ramBin op ea v n s = .next t ↔ CurOk s ea ∧
      t = { s with ram := Memory.put none s.ram (curKey s ea) (op s.f (curByte s ea) v).1,
                   f := (op s.f (curByte s ea) v).2, pc := s.pc + n } := by
  cases h : ramOk s.profile (curPage s) ea with
  | false => simp [ramBin, ramRd, CurOk, h, readRam]
  | true =>
    simp [ramBin, ramRd, ramWr, CurOk, h, readRam, writeRam, curByte, curKey, State.setFlags, State.advance, eq_comm]

theorem testAccRam_eq_next {op : TestOp} {ea : Byte} {s t : State} :
    testAccRam op ea s = .next t ↔ CurOk s ea ∧
      t = { s with f := op s.f s.a (curByte s ea), pc := s.pc + 2 } := by
  cases h : ramOk s.profile (curPage s) ea with
  | false => simp [testAccRam, ramRd, CurOk, h, readRam]
  | true => simp [testAccRam, ramRd, CurOk, h, readRam, curByte, curKey, State.setFlags, State.advance, eq_comm]

theorem testRam_eq_next {op : TestOp} {ea v : Byte} {s t : State} :
    testRam op ea v s = .next t ↔ CurOk s ea ∧
      t = { s with f := op s.f (curByte s ea) v, pc := s.pc + 3 } := by
  cases h : ramOk s.profile (curPage s) ea with
  | false => simp [testRam, ramRd, CurOk, h, readRam]
  | true => simp [testRam, ramRd, CurOk, h, readRam, curByte, curKey, State.setFlags, State.advance, eq_comm]

theorem unRam_eq_next {op : UnOp} {ea : Byte} {s t : State} :
    unRam op ea s = .next t ↔ CurOk s ea ∧
      t = { s with ram := Memory.put none s.ram (curKey s ea) (op s.f (curByte s ea)).1,
                   f := (op s.f (curByte s ea)).2, pc := s.pc + 2 } := by
  cases h : ramOk s.profile (curPage s) ea with
  | false => simp [unRam, ramRd, CurOk, h, readRam]
  | true =>
    simp [unRam, ramRd, ramWr, CurOk, h, readRam, writeRam, curByte, curKey, State.setFlags, State.advance, eq_comm]

theorem loadARam_eq_next {ea : Byte} {s t : State} :
    loadARam ea s = .next t ↔ CurOk s ea ∧ t = loadA (curByte s ea) 2 s := by
  cases h : ramOk s.profile (curPage s) ea with
  | false => simp [loadARam, ramRd, CurOk, h, readRam]
  | true => simp [loadARam, ramRd, CurOk, h, readRam, curByte, curKey, eq_comm]

theorem loadXRam_eq_next {ea : Byte} {s t : State} :
    loadXRam ea s = .next t ↔ CurOk s ea ∧ t = { s with x := curByte s ea, pc := s.pc + 2 } := by
  cases h : ramOk s.profile (curPage s) ea with
  | false => simp [loadXRam, ramRd, CurOk, h, readRam]
  | true => simp [loadXRam, ramRd, CurOk, h, readRam, curByte, curKey, State.setX, State.advance, eq_comm]

theorem storeRam_eq_next {ea v : Byte} {n : Word} {s t : State} :
    storeRam ea v n s = .next t ↔ CurOk s ea ∧
      t = { s with ram := Memory.put none s.ram (curKey s ea) v, pc := s.pc + n } := by
  cases h : ramOk s.profile (curPage s) ea with
  | false => simp [storeRam, ramWr, CurOk, h, writeRam]
  | true => simp [storeRam, ramWr, CurOk, h, writeRam, curKey, State.advance, eq_comm]

theorem loadARom_eq_next {addr n : Word} {s t : State} :
    loadARom addr n s = .next t ↔ ∃ v, romRd s addr = .ok v ∧ t = loadA v n s := by
  unfold loadARom
  cases h : romRd s addr <;> simp [eq_comm]

theorem callTo_eq_next {ret target : Word} {s t : State} :
    callTo ret target s = .next t ↔ ∃ u, pushWord s ret = .ok u ∧ t = u.setPc target := by
  unfold callTo
  cases h : pushWord s ret <;> simp [eq_comm]

/-! The register-space forms answer a next state in every state. -/

theorem regBin_next (op : BinOp) (ea v : Byte) (n : Word) (s : State) :
    regBin op ea v n s = .next { s with
      f := (op s.f (regRd s ea).1 v).2,
      regs := if isFMirror s.profile ea then s.regs
        else Memory.put (some 0x00#8) s.regs (regLoc s.f ea) (op s.f (regRd s ea).1 v).1,
      bus := ⟨.write, regLoc s.f ea, (op s.f (regRd s ea).1 v).1⟩ :: (regRd s ea).2.bus,
      fresh := (regRd s ea).2.fresh, pc := s.pc + n } := by
  unfold regBin
  rw [regWr_state]
  have h := regRd_state s ea
  generalize regRd s ea = p at *
  obtain ⟨v, u⟩ := p
  simp only at h
  rw [h]
  rfl

theorem testReg_next (op : TestOp) (ea v : Byte) (s : State) :
    testReg op ea v s = .next { s with
      f := op s.f (regRd s ea).1 v, bus := (regRd s ea).2.bus, fresh := (regRd s ea).2.fresh,
      pc := s.pc + 3 } := by
  unfold testReg
  have h := regRd_state s ea
  generalize regRd s ea = p at *
  obtain ⟨v, u⟩ := p
  simp only at h
  rw [h]
  rfl

theorem loadAReg_next (ea : Byte) (s : State) :
    loadAReg ea s = .next { s with
      a := (regRd s ea).1, f := setFlagZ s.f (regRd s ea).1, bus := (regRd s ea).2.bus,
      fresh := (regRd s ea).2.fresh, pc := s.pc + 2 } := by
  unfold loadAReg
  have h := regRd_state s ea
  generalize regRd s ea = p at *
  obtain ⟨v, u⟩ := p
  simp only at h
  rw [h]
  rfl

theorem storeReg_next (ea v : Byte) (n : Word) (s : State) :
    storeReg ea v n s = .next { s with
      regs := if isFMirror s.profile ea then s.regs
        else Memory.put (some 0x00#8) s.regs (regLoc s.f ea) v,
      bus := ⟨.write, regLoc s.f ea, v⟩ :: s.bus, pc := s.pc + n } := by
  unfold storeReg
  rw [regWr_state]
  rfl

theorem jumpIf_next (c : Bool) (k : Disp) (s : State) :
    jumpIf c k s = .next { s with pc := if c then jumpTarget s k else s.pc + 2 } := by
  cases c <;> rfl

/-! The instructions that have a form of their own. -/

theorem execHalt_next (s : State) :
    execHalt s = .next { s with
      halted := true,
      regs := if isFMirror s.profile cpuScrAddr then s.regs
        else Memory.put (some 0x00#8) s.regs (regLoc s.f cpuScrAddr) ((regRd s cpuScrAddr).1 + 1),
      bus := ⟨.write, regLoc s.f cpuScrAddr, (regRd s cpuScrAddr).1 + 1⟩ :: (regRd s cpuScrAddr).2.bus,
      fresh := (regRd s cpuScrAddr).2.fresh, pc := s.pc + 1 } := by
  unfold execHalt
  rw [regWr_state]
  have h := regRd_state s cpuScrAddr
  generalize regRd s cpuScrAddr = p at *
  obtain ⟨v, u⟩ := p
  simp only at h
  rw [h]
  rfl

theorem execPushA_eq_next {s t : State} : execPushA s = .next t ↔ StackOk s s.sp ∧
    t = { s with ram := Memory.put none s.ram (stackKey s s.sp) s.a, sp := s.sp + 1, pc := s.pc + 1 } := by
  unfold execPushA
  cases h : push s s.a with
  | error r =>
    have h' : ¬ ∃ t, push s s.a = .ok t := by simp [h]
    simp only [reduceCtorEq, false_iff]
    exact fun hc => h' ⟨_, push_eq_ok.2 ⟨hc.1, rfl⟩⟩
  | ok u =>
    obtain ⟨h1, rfl⟩ := push_eq_ok.1 h
    simp only [Host.Outcome.next.injEq, show StackOk s s.sp from h1, true_and]
    exact eq_comm

theorem execPushX_eq_next {s t : State} : execPushX s = .next t ↔ StackOk s s.sp ∧
    t = { s with ram := Memory.put none s.ram (stackKey s s.sp) s.x, sp := s.sp + 1, pc := s.pc + 1 } := by
  unfold execPushX
  cases h : push s s.x with
  | error r =>
    have h' : ¬ ∃ t, push s s.x = .ok t := by simp [h]
    simp only [reduceCtorEq, false_iff]
    exact fun hc => h' ⟨_, push_eq_ok.2 ⟨hc.1, rfl⟩⟩
  | ok u =>
    obtain ⟨h1, rfl⟩ := push_eq_ok.1 h
    simp only [Host.Outcome.next.injEq, show StackOk s s.sp from h1, true_and]
    exact eq_comm

theorem execPopA_eq_next {s t : State} : execPopA s = .next t ↔ StackOk s (s.sp - 1) ∧
    t = { s with a := stackByte s (s.sp - 1), f := setFlagZ s.f (stackByte s (s.sp - 1)), sp := s.sp - 1,
                 pc := s.pc + 1 } := by
  unfold execPopA
  cases h : ramOk s.profile (stackPage s) (s.sp - 1) with
  | false => simp only [pop_of_not_ok h, StackOk, h, reduceCtorEq, Bool.false_eq_true, false_and]
  | true =>
    rw [pop_eq_ok.2 ⟨h, rfl, rfl⟩]
    simp only [Host.Outcome.next.injEq, StackOk, h, true_and]
    exact eq_comm

theorem execPopX_eq_next {s t : State} : execPopX s = .next t ↔ StackOk s (s.sp - 1) ∧
    t = { s with x := stackByte s (s.sp - 1), sp := s.sp - 1, pc := s.pc + 1 } := by
  unfold execPopX
  cases h : ramOk s.profile (stackPage s) (s.sp - 1) with
  | false => simp only [pop_of_not_ok h, StackOk, h, reduceCtorEq, Bool.false_eq_true, false_and]
  | true =>
    rw [pop_eq_ok.2 ⟨h, rfl, rfl⟩]
    simp only [Host.Outcome.next.injEq, StackOk, h, true_and]
    exact eq_comm

theorem execSwapADir_eq_next {k : Byte} {s t : State} : execSwapADir k s = .next t ↔ CurOk s k ∧
    t = { s with a := curByte s k, ram := Memory.put none s.ram (curKey s k) s.a,
                 f := setFlagZ s.f (curByte s k), pc := s.pc + 2 } := by
  cases h : ramOk s.profile (curPage s) k with
  | false => simp [execSwapADir, eaDir, ramRd, CurOk, h, readRam]
  | true =>
    simp [execSwapADir, eaDir, ramRd, ramWr, CurOk, h, readRam, writeRam, curByte, curKey, loadA, State.setA,
      State.setFlags, State.advance, eq_comm]

theorem execSwapXDir_eq_next {k : Byte} {s t : State} : execSwapXDir k s = .next t ↔ CurOk s k ∧
    t = { s with x := curByte s k, ram := Memory.put none s.ram (curKey s k) s.x, pc := s.pc + 2 } := by
  cases h : ramOk s.profile (curPage s) k with
  | false => simp [execSwapXDir, eaDir, ramRd, CurOk, h, readRam]
  | true =>
    simp [execSwapXDir, eaDir, ramRd, ramWr, CurOk, h, readRam, writeRam, curByte, curKey, State.setX,
      State.advance, eq_comm]

theorem execMovDirDir_eq_next {k1 k2 : Byte} {s t : State} :
    execMovDirDir k1 k2 s = .next t ↔ CurOk s k2 ∧ CurOk s k1 ∧
      t = { s with ram := Memory.put none s.ram (curKey s k1) (curByte s k2), pc := s.pc + 3 } := by
  unfold execMovDirDir
  cases h : ramOk s.profile (curPage s) k2 with
  | false => simp [eaDir, ramRd, CurOk, h, readRam]
  | true =>
    rw [show ramRd s (eaDir k2 s) = .ok (curByte s k2) from ramRd_eq_ok.2 ⟨h, rfl⟩]
    simp only [storeRam_eq_next, eaDir, show CurOk s k2 from h, true_and]

theorem execMviRead_eq_next {k : Byte} {s t : State} :
    execMviRead k s = .next t ↔ CurOk s k ∧ ramOk s.profile (mviReadPage s) (curByte s k) = true ∧
      t = { s with
        a := ramByte s (mviReadPage s * 256 + (curByte s k).toNat),
        f := setFlagZ s.f (ramByte s (mviReadPage s * 256 + (curByte s k).toNat)),
        ram := Memory.put none s.ram (curKey s k) (curByte s k + 1), pc := s.pc + 2 } := by
  unfold execMviRead
  cases h : ramOk s.profile (curPage s) k with
  | false => simp [ramRd, CurOk, h, readRam]
  | true =>
    rw [show ramRd s k = .ok (curByte s k) from ramRd_eq_ok.2 ⟨h, rfl⟩]
    cases h2 : ramOk s.profile (mviReadPage s) (curByte s k) with
    | false => simp [readRam, h2]
    | true =>
      simp only [readRam_of_ok h2]
      rw [ramWr_eq_ok.2 ⟨h, rfl⟩]
      simp only [Host.Outcome.next.injEq, show CurOk s k from h, true_and]
      exact eq_comm

theorem execMviWrite_eq_next {k : Byte} {s t : State} :
    execMviWrite k s = .next t ↔ CurOk s k ∧ ramOk s.profile (mviWritePage s) (curByte s k) = true ∧
      t = { s with
        ram := Memory.put none
          (Memory.put none s.ram (mviWritePage s * 256 + (curByte s k).toNat) s.a)
          (curKey s k) (curByte s k + 1), pc := s.pc + 2 } := by
  unfold execMviWrite
  cases h : ramOk s.profile (curPage s) k with
  | false => simp [ramRd, CurOk, h, readRam]
  | true =>
    rw [show ramRd s k = .ok (curByte s k) from ramRd_eq_ok.2 ⟨h, rfl⟩]
    cases h2 : ramOk s.profile (mviWritePage s) (curByte s k) with
    | false => simp [writeRam, h2]
    | true =>
      simp only [writeRam_of_ok _ h2]
      have h3 := (ramWr_eq_ok (s := { s with
        ram := Memory.put none s.ram (mviWritePage s * 256 + (curByte s k).toNat) s.a })
        (addr := k) (v := curByte s k + 1)).2 ⟨h, rfl⟩
      rw [h3]
      simp only [Host.Outcome.next.injEq, show CurOk s k from h, true_and]
      exact eq_comm

theorem execRet_eq_next {s t : State} :
    execRet s = .next t ↔ StackOk s (s.sp - 1) ∧ StackOk s (s.sp - 1 - 1) ∧
      t = { s with sp := s.sp - 1 - 1, pc := stackByte s (s.sp - 1 - 1) ++ stackByte s (s.sp - 1) } := by
  unfold execRet
  cases h : popWord s with
  | error r =>
    have h' : ¬ ∃ p, popWord s = .ok p := by simp [h]
    simp only [reduceCtorEq, false_iff]
    exact fun hc => h' ⟨_, popWord_eq_ok.2 ⟨hc.1, hc.2.1, rfl, rfl⟩⟩
  | ok p =>
    obtain ⟨w, u⟩ := p
    obtain ⟨h1, h2, rfl, rfl⟩ := popWord_eq_ok.1 h
    simp only [Host.Outcome.next.injEq, show StackOk s (s.sp - 1) from h1, show StackOk s (s.sp - 1 - 1) from h2,
      true_and]
    exact eq_comm

theorem execReti_eq_next {s t : State} : execReti s = .next t ↔ returnFromInterrupt s = .ok t :=
  ofExcept_eq_next

theorem execSsc_eq_next {s t : State} :
    execSsc s = .next t ↔ ∃ u, enterHandler s (s.pc + 1) 0x0000#16 = .ok u ∧ u.profile.srom = true ∧
      returnFromInterrupt (applySrom u (sromEffect u)) = .ok t := by
  unfold execSsc
  cases h : enterHandler s (s.pc + 1) 0x0000#16 <;> simp [ofExcept_eq_next, sromCall_eq_ok]

/-- A RAM store at `addr` of the current page, in the terms of claims. -/
theorem ramStored_put (s : State) (key : Nat) (v : Byte) (f : Byte) (pc : Word) :
    RamStored s { s with ram := Memory.put none s.ram key v, f := f, pc := pc } key v :=
  fun j => ramByte_put s key v j

end Sys2Proof.Machine
end

