-- ==== Sys2Proof/Laws/PerInstr.lean ====
section
/-! SUPPORT. The family of statements made per instruction: the encoding of an instruction has the length of its row, and byte 0 alone says so (30_encoding.md R130, R133). -/

namespace Sys2Proof.Laws.EncodedLength

/-- The encoding of `i` is as long as its row of the opcode map says, and that is the length its byte 0 asks for. -/
def Statement (i : Instr) : Prop :=
  (encode i).length = i.length ∧ (encode i).head?.map opcodeLength = some i.length

theorem ssc : Statement (.ssc) := ⟨rfl, rfl⟩
theorem addAImm (k : Byte) : Statement (.addAImm k) := ⟨rfl, rfl⟩
theorem addADir (k : Byte) : Statement (.addADir k) := ⟨rfl, rfl⟩
theorem addAIdx (k : Byte) : Statement (.addAIdx k) := ⟨rfl, rfl⟩
theorem addDirA (k : Byte) : Statement (.addDirA k) := ⟨rfl, rfl⟩
theorem addIdxA (k : Byte) : Statement (.addIdxA k) := ⟨rfl, rfl⟩
theorem addDirImm (k1 : Byte) (k2 : Byte) : Statement (.addDirImm k1 k2) := ⟨rfl, rfl⟩
theorem addIdxImm (k1 : Byte) (k2 : Byte) : Statement (.addIdxImm k1 k2) := ⟨rfl, rfl⟩
theorem pushA : Statement (.pushA) := ⟨rfl, rfl⟩
theorem adcAImm (k : Byte) : Statement (.adcAImm k) := ⟨rfl, rfl⟩
theorem adcADir (k : Byte) : Statement (.adcADir k) := ⟨rfl, rfl⟩
theorem adcAIdx (k : Byte) : Statement (.adcAIdx k) := ⟨rfl, rfl⟩
theorem adcDirA (k : Byte) : Statement (.adcDirA k) := ⟨rfl, rfl⟩
theorem adcIdxA (k : Byte) : Statement (.adcIdxA k) := ⟨rfl, rfl⟩
theorem adcDirImm (k1 : Byte) (k2 : Byte) : Statement (.adcDirImm k1 k2) := ⟨rfl, rfl⟩
theorem adcIdxImm (k1 : Byte) (k2 : Byte) : Statement (.adcIdxImm k1 k2) := ⟨rfl, rfl⟩
theorem pushX : Statement (.pushX) := ⟨rfl, rfl⟩
theorem subAImm (k : Byte) : Statement (.subAImm k) := ⟨rfl, rfl⟩
theorem subADir (k : Byte) : Statement (.subADir k) := ⟨rfl, rfl⟩
theorem subAIdx (k : Byte) : Statement (.subAIdx k) := ⟨rfl, rfl⟩
theorem subDirA (k : Byte) : Statement (.subDirA k) := ⟨rfl, rfl⟩
theorem subIdxA (k : Byte) : Statement (.subIdxA k) := ⟨rfl, rfl⟩
theorem subDirImm (k1 : Byte) (k2 : Byte) : Statement (.subDirImm k1 k2) := ⟨rfl, rfl⟩
theorem subIdxImm (k1 : Byte) (k2 : Byte) : Statement (.subIdxImm k1 k2) := ⟨rfl, rfl⟩
theorem popA : Statement (.popA) := ⟨rfl, rfl⟩
theorem sbbAImm (k : Byte) : Statement (.sbbAImm k) := ⟨rfl, rfl⟩
theorem sbbADir (k : Byte) : Statement (.sbbADir k) := ⟨rfl, rfl⟩
theorem sbbAIdx (k : Byte) : Statement (.sbbAIdx k) := ⟨rfl, rfl⟩
theorem sbbDirA (k : Byte) : Statement (.sbbDirA k) := ⟨rfl, rfl⟩
theorem sbbIdxA (k : Byte) : Statement (.sbbIdxA k) := ⟨rfl, rfl⟩
theorem sbbDirImm (k1 : Byte) (k2 : Byte) : Statement (.sbbDirImm k1 k2) := ⟨rfl, rfl⟩
theorem sbbIdxImm (k1 : Byte) (k2 : Byte) : Statement (.sbbIdxImm k1 k2) := ⟨rfl, rfl⟩
theorem popX : Statement (.popX) := ⟨rfl, rfl⟩
theorem andAImm (k : Byte) : Statement (.andAImm k) := ⟨rfl, rfl⟩
theorem andADir (k : Byte) : Statement (.andADir k) := ⟨rfl, rfl⟩
theorem andAIdx (k : Byte) : Statement (.andAIdx k) := ⟨rfl, rfl⟩
theorem andDirA (k : Byte) : Statement (.andDirA k) := ⟨rfl, rfl⟩
theorem andIdxA (k : Byte) : Statement (.andIdxA k) := ⟨rfl, rfl⟩
theorem andDirImm (k1 : Byte) (k2 : Byte) : Statement (.andDirImm k1 k2) := ⟨rfl, rfl⟩
theorem andIdxImm (k1 : Byte) (k2 : Byte) : Statement (.andIdxImm k1 k2) := ⟨rfl, rfl⟩
theorem romx : Statement (.romx) := ⟨rfl, rfl⟩
theorem orAImm (k : Byte) : Statement (.orAImm k) := ⟨rfl, rfl⟩
theorem orADir (k : Byte) : Statement (.orADir k) := ⟨rfl, rfl⟩
theorem orAIdx (k : Byte) : Statement (.orAIdx k) := ⟨rfl, rfl⟩
theorem orDirA (k : Byte) : Statement (.orDirA k) := ⟨rfl, rfl⟩
theorem orIdxA (k : Byte) : Statement (.orIdxA k) := ⟨rfl, rfl⟩
theorem orDirImm (k1 : Byte) (k2 : Byte) : Statement (.orDirImm k1 k2) := ⟨rfl, rfl⟩
theorem orIdxImm (k1 : Byte) (k2 : Byte) : Statement (.orIdxImm k1 k2) := ⟨rfl, rfl⟩
theorem halt : Statement (.halt) := ⟨rfl, rfl⟩
theorem xorAImm (k : Byte) : Statement (.xorAImm k) := ⟨rfl, rfl⟩
theorem xorADir (k : Byte) : Statement (.xorADir k) := ⟨rfl, rfl⟩
theorem xorAIdx (k : Byte) : Statement (.xorAIdx k) := ⟨rfl, rfl⟩
theorem xorDirA (k : Byte) : Statement (.xorDirA k) := ⟨rfl, rfl⟩
theorem xorIdxA (k : Byte) : Statement (.xorIdxA k) := ⟨rfl, rfl⟩
theorem xorDirImm (k1 : Byte) (k2 : Byte) : Statement (.xorDirImm k1 k2) := ⟨rfl, rfl⟩
theorem xorIdxImm (k1 : Byte) (k2 : Byte) : Statement (.xorIdxImm k1 k2) := ⟨rfl, rfl⟩
theorem addSp (k : Byte) : Statement (.addSp k) := ⟨rfl, rfl⟩
theorem cmpAImm (k : Byte) : Statement (.cmpAImm k) := ⟨rfl, rfl⟩
theorem cmpADir (k : Byte) : Statement (.cmpADir k) := ⟨rfl, rfl⟩
theorem cmpAIdx (k : Byte) : Statement (.cmpAIdx k) := ⟨rfl, rfl⟩
theorem cmpDirImm (k1 : Byte) (k2 : Byte) : Statement (.cmpDirImm k1 k2) := ⟨rfl, rfl⟩
theorem cmpIdxImm (k1 : Byte) (k2 : Byte) : Statement (.cmpIdxImm k1 k2) := ⟨rfl, rfl⟩
theorem mviRead (k : Byte) : Statement (.mviRead k) := ⟨rfl, rfl⟩
theorem mviWrite (k : Byte) : Statement (.mviWrite k) := ⟨rfl, rfl⟩
theorem nop : Statement (.nop) := ⟨rfl, rfl⟩
theorem andReg (k1 : Byte) (k2 : Byte) : Statement (.andReg k1 k2) := ⟨rfl, rfl⟩
theorem andRegIdx (k1 : Byte) (k2 : Byte) : Statement (.andRegIdx k1 k2) := ⟨rfl, rfl⟩
theorem orReg (k1 : Byte) (k2 : Byte) : Statement (.orReg k1 k2) := ⟨rfl, rfl⟩
theorem orRegIdx (k1 : Byte) (k2 : Byte) : Statement (.orRegIdx k1 k2) := ⟨rfl, rfl⟩
theorem xorReg (k1 : Byte) (k2 : Byte) : Statement (.xorReg k1 k2) := ⟨rfl, rfl⟩
theorem xorRegIdx (k1 : Byte) (k2 : Byte) : Statement (.xorRegIdx k1 k2) := ⟨rfl, rfl⟩
theorem tstDir (k1 : Byte) (k2 : Byte) : Statement (.tstDir k1 k2) := ⟨rfl, rfl⟩
theorem tstIdx (k1 : Byte) (k2 : Byte) : Statement (.tstIdx k1 k2) := ⟨rfl, rfl⟩
theorem tstReg (k1 : Byte) (k2 : Byte) : Statement (.tstReg k1 k2) := ⟨rfl, rfl⟩
theorem tstRegIdx (k1 : Byte) (k2 : Byte) : Statement (.tstRegIdx k1 k2) := ⟨rfl, rfl⟩
theorem swapAX : Statement (.swapAX) := ⟨rfl, rfl⟩
theorem swapADir (k : Byte) : Statement (.swapADir k) := ⟨rfl, rfl⟩
theorem swapXDir (k : Byte) : Statement (.swapXDir k) := ⟨rfl, rfl⟩
theorem swapASp : Statement (.swapASp) := ⟨rfl, rfl⟩
theorem movXSp : Statement (.movXSp) := ⟨rfl, rfl⟩
theorem movAImm (k : Byte) : Statement (.movAImm k) := ⟨rfl, rfl⟩
theorem movADir (k : Byte) : Statement (.movADir k) := ⟨rfl, rfl⟩
theorem movAIdx (k : Byte) : Statement (.movAIdx k) := ⟨rfl, rfl⟩
theorem movDirA (k : Byte) : Statement (.movDirA k) := ⟨rfl, rfl⟩
theorem movIdxA (k : Byte) : Statement (.movIdxA k) := ⟨rfl, rfl⟩
theorem movDirImm (k1 : Byte) (k2 : Byte) : Statement (.movDirImm k1 k2) := ⟨rfl, rfl⟩
theorem movIdxImm (k1 : Byte) (k2 : Byte) : Statement (.movIdxImm k1 k2) := ⟨rfl, rfl⟩
theorem movXImm (k : Byte) : Statement (.movXImm k) := ⟨rfl, rfl⟩
theorem movXDir (k : Byte) : Statement (.movXDir k) := ⟨rfl, rfl⟩
theorem movXIdx (k : Byte) : Statement (.movXIdx k) := ⟨rfl, rfl⟩
theorem movDirX (k : Byte) : Statement (.movDirX k) := ⟨rfl, rfl⟩
theorem movAX : Statement (.movAX) := ⟨rfl, rfl⟩
theorem movXA : Statement (.movXA) := ⟨rfl, rfl⟩
theorem movAReg (k : Byte) : Statement (.movAReg k) := ⟨rfl, rfl⟩
theorem movARegIdx (k : Byte) : Statement (.movARegIdx k) := ⟨rfl, rfl⟩
theorem movDirDir (k1 : Byte) (k2 : Byte) : Statement (.movDirDir k1 k2) := ⟨rfl, rfl⟩
theorem movRegA (k : Byte) : Statement (.movRegA k) := ⟨rfl, rfl⟩
theorem movRegIdxA (k : Byte) : Statement (.movRegIdxA k) := ⟨rfl, rfl⟩
theorem movRegImm (k1 : Byte) (k2 : Byte) : Statement (.movRegImm k1 k2) := ⟨rfl, rfl⟩
theorem movRegIdxImm (k1 : Byte) (k2 : Byte) : Statement (.movRegIdxImm k1 k2) := ⟨rfl, rfl⟩
theorem aslA : Statement (.aslA) := ⟨rfl, rfl⟩
theorem aslDir (k : Byte) : Statement (.aslDir k) := ⟨rfl, rfl⟩
theorem aslIdx (k : Byte) : Statement (.aslIdx k) := ⟨rfl, rfl⟩
theorem asrA : Statement (.asrA) := ⟨rfl, rfl⟩
theorem asrDir (k : Byte) : Statement (.asrDir k) := ⟨rfl, rfl⟩
theorem asrIdx (k : Byte) : Statement (.asrIdx k) := ⟨rfl, rfl⟩
theorem rlcA : Statement (.rlcA) := ⟨rfl, rfl⟩
theorem rlcDir (k : Byte) : Statement (.rlcDir k) := ⟨rfl, rfl⟩
theorem rlcIdx (k : Byte) : Statement (.rlcIdx k) := ⟨rfl, rfl⟩
theorem rrcA : Statement (.rrcA) := ⟨rfl, rfl⟩
theorem rrcDir (k : Byte) : Statement (.rrcDir k) := ⟨rfl, rfl⟩
theorem rrcIdx (k : Byte) : Statement (.rrcIdx k) := ⟨rfl, rfl⟩
theorem andF (k : Byte) : Statement (.andF k) := ⟨rfl, rfl⟩
theorem orF (k : Byte) : Statement (.orF k) := ⟨rfl, rfl⟩
theorem xorF (k : Byte) : Statement (.xorF k) := ⟨rfl, rfl⟩
theorem cplA : Statement (.cplA) := ⟨rfl, rfl⟩
theorem incA : Statement (.incA) := ⟨rfl, rfl⟩
theorem incX : Statement (.incX) := ⟨rfl, rfl⟩
theorem incDir (k : Byte) : Statement (.incDir k) := ⟨rfl, rfl⟩
theorem incIdx (k : Byte) : Statement (.incIdx k) := ⟨rfl, rfl⟩
theorem decA : Statement (.decA) := ⟨rfl, rfl⟩
theorem decX : Statement (.decX) := ⟨rfl, rfl⟩
theorem decDir (k : Byte) : Statement (.decDir k) := ⟨rfl, rfl⟩
theorem decIdx (k : Byte) : Statement (.decIdx k) := ⟨rfl, rfl⟩
theorem lcall (k : Word) : Statement (.lcall k) := ⟨rfl, rfl⟩
theorem ljmp (k : Word) : Statement (.ljmp k) := ⟨rfl, rfl⟩
theorem reti : Statement (.reti) := ⟨rfl, rfl⟩
theorem ret : Statement (.ret) := ⟨rfl, rfl⟩
theorem jmp (k : Disp) : Statement (.jmp k) := ⟨rfl, congrArg some (opcodeLength_encodeRel 0x8#4 (k.extractLsb' 8 4) Instr.jmp (by decide) rfl)⟩
theorem call (k : Disp) : Statement (.call k) := ⟨rfl, congrArg some (opcodeLength_encodeRel 0x9#4 (k.extractLsb' 8 4) Instr.call (by decide) rfl)⟩
theorem jz (k : Disp) : Statement (.jz k) := ⟨rfl, congrArg some (opcodeLength_encodeRel 0xA#4 (k.extractLsb' 8 4) Instr.jz (by decide) rfl)⟩
theorem jnz (k : Disp) : Statement (.jnz k) := ⟨rfl, congrArg some (opcodeLength_encodeRel 0xB#4 (k.extractLsb' 8 4) Instr.jnz (by decide) rfl)⟩
theorem jc (k : Disp) : Statement (.jc k) := ⟨rfl, congrArg some (opcodeLength_encodeRel 0xC#4 (k.extractLsb' 8 4) Instr.jc (by decide) rfl)⟩
theorem jnc (k : Disp) : Statement (.jnc k) := ⟨rfl, congrArg some (opcodeLength_encodeRel 0xD#4 (k.extractLsb' 8 4) Instr.jnc (by decide) rfl)⟩
theorem jacc (k : Disp) : Statement (.jacc k) := ⟨rfl, congrArg some (opcodeLength_encodeRel 0xE#4 (k.extractLsb' 8 4) Instr.jacc (by decide) rfl)⟩
theorem index (k : Disp) : Statement (.index k) := ⟨rfl, congrArg some (opcodeLength_encodeRel 0xF#4 (k.extractLsb' 8 4) Instr.index (by decide) rfl)⟩

end Sys2Proof.Laws.EncodedLength
end

