-- ==== Sys2Proof/Tests/Slice0.lean ====
section
/-! SUPPORT. Tests: ill-formed terms, words written out from the spec's encodings, the vectors of 96_test_vectors_derived.md (at most two an instruction), the assembler's and the loaders' worked examples, and for each obligation with hypotheses a witness that meets them. -/

open Sys2Proof Sys2Proof.Machine

set_option maxRecDepth 8000

namespace Sys2Proof.Tests

/-! Helpers. -/

/-- A state of the base profile with an instruction at `pc`. -/
def start (pc : Word) (bytes : List Byte) (a x sp f : Byte) (ram regs rom : List Host.Cell) : State :=
  { State.reset with
    a := a, x := x, sp := sp, f := f, pc := pc, ram := Memory.putAll none [] ram,
    regs := Memory.putAll (some 0x00#8) [] regs,
    rom := Memory.putAll none [] (Memory.cellsFrom pc.toNat bytes ++ rom) }

/-- One step from a state shows this result. -/
def gives (s : State) (e : RunResult) : Bool :=
  match step s with
  | .next t => decide (resultOf t = e)
  | .fault _ => false
  | .refused _ => false

/-- One step from a state is refused for this reason. -/
def refusedWith (s : State) (r : Refusal) : Bool :=
  match step s with
  | .next _ => false
  | .fault _ => false
  | .refused q => decide (q = r)

/-- The bytes decode to the instruction, with nothing left. -/
def decodesTo (bs : List Byte) (i : Instr) : Bool := decide (decode bs = .instr i [])

/-- The base profile with a supplied `SromCall`. -/
def sromProfile : Profile := { Profile.base with srom := true }

/-- A two-page device: stack in page 1, page pointers at 0xD0, 0xD3, 0xD4 of bank 0, a device at 0x20. -/
def twoPages : Profile :=
  { Profile.base with
    ramPages := 2, ramSize := 512, stackPage := 1, cppDr := 0xD0, dprDr := 0xD3, dpwDr := 0xD4, devices := [0x20] }

/-! Well-formedness refuses what is ill formed. -/

theorem test_relOperandOk_above : relOperandOk 2048 = false := by decide
theorem test_relOperandOk_below : relOperandOk (-2049) = false := by decide
theorem test_relOperandOk_ends : (relOperandOk 2047 && relOperandOk (-2048)) = true := by decide
theorem test_wordOperandOk_above : wordOperandOk 65536 = false := by decide
theorem test_wordOperandOk_below : wordOperandOk (-1) = false := by decide
theorem test_cellsBelow_outside : cellsBelow 512 [(512, 0x01)] = false := by decide
theorem test_profile_base_wf : Profile.base.wf = true := by decide
theorem test_profile_noPage : Profile.wf { Profile.base with ramPages := 0, ramSize := 0 } = false := by decide
theorem test_profile_ramBeyondPages : Profile.wf { Profile.base with ramSize := 257 } = false := by decide
theorem test_profile_pagesWithoutRam : Profile.wf { Profile.base with ramPages := 2, ramSize := 200 } = false := by decide
theorem test_profile_flashNotBlocks : Profile.wf { Profile.base with flashSize := 100 } = false := by decide
theorem test_profile_stackPageAbsent : Profile.wf { Profile.base with stackPage := 1 } = false := by decide
theorem test_profile_flashTooLarge : Profile.wf { Profile.base with flashSize := 65537 } = false := by decide
theorem test_profile_cppOutside : Profile.wf { Profile.base with cppDr := 512 } = false := by decide
theorem test_profile_dprOutside : Profile.wf { Profile.base with dprDr := 512 } = false := by decide
theorem test_profile_dpwOutside : Profile.wf { Profile.base with dpwDr := 512 } = false := by decide
theorem test_profile_deviceOutside : Profile.wf { Profile.base with devices := [512] } = false := by decide
theorem test_profile_powerOnOutside : Profile.wf { Profile.base with regPowerOn := [(512, 0x01)] } = false := by decide
theorem test_memory_unsorted : Memory.wf none [(2, 0x00), (1, 0x00)] = false := by decide
theorem test_memory_background : Memory.wf (some 0x00#8) [(1, 0x00)] = false := by decide

/-! Decoding: every row's word, written from 30_encoding.md R131, R134 to R137, byte 0 bit by bit. -/

/-- Byte 0 from 0x00 to 0x0F. -/
theorem test_decode_from00 :
    (decodesTo [0b00000000] .ssc &&
      decodesTo [0b00000001, 0x5A] (.addAImm 0x5A) &&
      decodesTo [0b00000010, 0x5A] (.addADir 0x5A) &&
      decodesTo [0b00000011, 0x5A] (.addAIdx 0x5A) &&
      decodesTo [0b00000100, 0x5A] (.addDirA 0x5A) &&
      decodesTo [0b00000101, 0x5A] (.addIdxA 0x5A) &&
      decodesTo [0b00000110, 0x5A, 0xA3] (.addDirImm 0x5A 0xA3) &&
      decodesTo [0b00000111, 0x5A, 0xA3] (.addIdxImm 0x5A 0xA3) &&
      decodesTo [0b00001000] .pushA &&
      decodesTo [0b00001001, 0x5A] (.adcAImm 0x5A) &&
      decodesTo [0b00001010, 0x5A] (.adcADir 0x5A) &&
      decodesTo [0b00001011, 0x5A] (.adcAIdx 0x5A) &&
      decodesTo [0b00001100, 0x5A] (.adcDirA 0x5A) &&
      decodesTo [0b00001101, 0x5A] (.adcIdxA 0x5A) &&
      decodesTo [0b00001110, 0x5A, 0xA3] (.adcDirImm 0x5A 0xA3) &&
      decodesTo [0b00001111, 0x5A, 0xA3] (.adcIdxImm 0x5A 0xA3)) = true := by decide

/-- Byte 0 from 0x10 to 0x1F. -/
theorem test_decode_from10 :
    (decodesTo [0b00010000] .pushX &&
      decodesTo [0b00010001, 0x5A] (.subAImm 0x5A) &&
      decodesTo [0b00010010, 0x5A] (.subADir 0x5A) &&
      decodesTo [0b00010011, 0x5A] (.subAIdx 0x5A) &&
      decodesTo [0b00010100, 0x5A] (.subDirA 0x5A) &&
      decodesTo [0b00010101, 0x5A] (.subIdxA 0x5A) &&
      decodesTo [0b00010110, 0x5A, 0xA3] (.subDirImm 0x5A 0xA3) &&
      decodesTo [0b00010111, 0x5A, 0xA3] (.subIdxImm 0x5A 0xA3) &&
      decodesTo [0b00011000] .popA &&
      decodesTo [0b00011001, 0x5A] (.sbbAImm 0x5A) &&
      decodesTo [0b00011010, 0x5A] (.sbbADir 0x5A) &&
      decodesTo [0b00011011, 0x5A] (.sbbAIdx 0x5A) &&
      decodesTo [0b00011100, 0x5A] (.sbbDirA 0x5A) &&
      decodesTo [0b00011101, 0x5A] (.sbbIdxA 0x5A) &&
      decodesTo [0b00011110, 0x5A, 0xA3] (.sbbDirImm 0x5A 0xA3) &&
      decodesTo [0b00011111, 0x5A, 0xA3] (.sbbIdxImm 0x5A 0xA3)) = true := by decide

/-- Byte 0 from 0x20 to 0x2F. -/
theorem test_decode_from20 :
    (decodesTo [0b00100000] .popX &&
      decodesTo [0b00100001, 0x5A] (.andAImm 0x5A) &&
      decodesTo [0b00100010, 0x5A] (.andADir 0x5A) &&
      decodesTo [0b00100011, 0x5A] (.andAIdx 0x5A) &&
      decodesTo [0b00100100, 0x5A] (.andDirA 0x5A) &&
      decodesTo [0b00100101, 0x5A] (.andIdxA 0x5A) &&
      decodesTo [0b00100110, 0x5A, 0xA3] (.andDirImm 0x5A 0xA3) &&
      decodesTo [0b00100111, 0x5A, 0xA3] (.andIdxImm 0x5A 0xA3) &&
      decodesTo [0b00101000] .romx &&
      decodesTo [0b00101001, 0x5A] (.orAImm 0x5A) &&
      decodesTo [0b00101010, 0x5A] (.orADir 0x5A) &&
      decodesTo [0b00101011, 0x5A] (.orAIdx 0x5A) &&
      decodesTo [0b00101100, 0x5A] (.orDirA 0x5A) &&
      decodesTo [0b00101101, 0x5A] (.orIdxA 0x5A) &&
      decodesTo [0b00101110, 0x5A, 0xA3] (.orDirImm 0x5A 0xA3) &&
      decodesTo [0b00101111, 0x5A, 0xA3] (.orIdxImm 0x5A 0xA3)) = true := by decide

/-- Byte 0 from 0x30 to 0x3F. -/
theorem test_decode_from30 :
    (decodesTo [0b00110000] .halt &&
      decodesTo [0b00110001, 0x5A] (.xorAImm 0x5A) &&
      decodesTo [0b00110010, 0x5A] (.xorADir 0x5A) &&
      decodesTo [0b00110011, 0x5A] (.xorAIdx 0x5A) &&
      decodesTo [0b00110100, 0x5A] (.xorDirA 0x5A) &&
      decodesTo [0b00110101, 0x5A] (.xorIdxA 0x5A) &&
      decodesTo [0b00110110, 0x5A, 0xA3] (.xorDirImm 0x5A 0xA3) &&
      decodesTo [0b00110111, 0x5A, 0xA3] (.xorIdxImm 0x5A 0xA3) &&
      decodesTo [0b00111000, 0x5A] (.addSp 0x5A) &&
      decodesTo [0b00111001, 0x5A] (.cmpAImm 0x5A) &&
      decodesTo [0b00111010, 0x5A] (.cmpADir 0x5A) &&
      decodesTo [0b00111011, 0x5A] (.cmpAIdx 0x5A) &&
      decodesTo [0b00111100, 0x5A, 0xA3] (.cmpDirImm 0x5A 0xA3) &&
      decodesTo [0b00111101, 0x5A, 0xA3] (.cmpIdxImm 0x5A 0xA3) &&
      decodesTo [0b00111110, 0x5A] (.mviRead 0x5A) &&
      decodesTo [0b00111111, 0x5A] (.mviWrite 0x5A)) = true := by decide

/-- Byte 0 from 0x40 to 0x4F. -/
theorem test_decode_from40 :
    (decodesTo [0b01000000] .nop &&
      decodesTo [0b01000001, 0x5A, 0xA3] (.andReg 0x5A 0xA3) &&
      decodesTo [0b01000010, 0x5A, 0xA3] (.andRegIdx 0x5A 0xA3) &&
      decodesTo [0b01000011, 0x5A, 0xA3] (.orReg 0x5A 0xA3) &&
      decodesTo [0b01000100, 0x5A, 0xA3] (.orRegIdx 0x5A 0xA3) &&
      decodesTo [0b01000101, 0x5A, 0xA3] (.xorReg 0x5A 0xA3) &&
      decodesTo [0b01000110, 0x5A, 0xA3] (.xorRegIdx 0x5A 0xA3) &&
      decodesTo [0b01000111, 0x5A, 0xA3] (.tstDir 0x5A 0xA3) &&
      decodesTo [0b01001000, 0x5A, 0xA3] (.tstIdx 0x5A 0xA3) &&
      decodesTo [0b01001001, 0x5A, 0xA3] (.tstReg 0x5A 0xA3) &&
      decodesTo [0b01001010, 0x5A, 0xA3] (.tstRegIdx 0x5A 0xA3) &&
      decodesTo [0b01001011] .swapAX &&
      decodesTo [0b01001100, 0x5A] (.swapADir 0x5A) &&
      decodesTo [0b01001101, 0x5A] (.swapXDir 0x5A) &&
      decodesTo [0b01001110] .swapASp &&
      decodesTo [0b01001111] .movXSp) = true := by decide

/-- Byte 0 from 0x50 to 0x5F. -/
theorem test_decode_from50 :
    (decodesTo [0b01010000, 0x5A] (.movAImm 0x5A) &&
      decodesTo [0b01010001, 0x5A] (.movADir 0x5A) &&
      decodesTo [0b01010010, 0x5A] (.movAIdx 0x5A) &&
      decodesTo [0b01010011, 0x5A] (.movDirA 0x5A) &&
      decodesTo [0b01010100, 0x5A] (.movIdxA 0x5A) &&
      decodesTo [0b01010101, 0x5A, 0xA3] (.movDirImm 0x5A 0xA3) &&
      decodesTo [0b01010110, 0x5A, 0xA3] (.movIdxImm 0x5A 0xA3) &&
      decodesTo [0b01010111, 0x5A] (.movXImm 0x5A) &&
      decodesTo [0b01011000, 0x5A] (.movXDir 0x5A) &&
      decodesTo [0b01011001, 0x5A] (.movXIdx 0x5A) &&
      decodesTo [0b01011010, 0x5A] (.movDirX 0x5A) &&
      decodesTo [0b01011011] .movAX &&
      decodesTo [0b01011100] .movXA &&
      decodesTo [0b01011101, 0x5A] (.movAReg 0x5A) &&
      decodesTo [0b01011110, 0x5A] (.movARegIdx 0x5A) &&
      decodesTo [0b01011111, 0x5A, 0xA3] (.movDirDir 0x5A 0xA3)) = true := by decide

/-- Byte 0 from 0x60 to 0x6F. -/
theorem test_decode_from60 :
    (decodesTo [0b01100000, 0x5A] (.movRegA 0x5A) &&
      decodesTo [0b01100001, 0x5A] (.movRegIdxA 0x5A) &&
      decodesTo [0b01100010, 0x5A, 0xA3] (.movRegImm 0x5A 0xA3) &&
      decodesTo [0b01100011, 0x5A, 0xA3] (.movRegIdxImm 0x5A 0xA3) &&
      decodesTo [0b01100100] .aslA &&
      decodesTo [0b01100101, 0x5A] (.aslDir 0x5A) &&
      decodesTo [0b01100110, 0x5A] (.aslIdx 0x5A) &&
      decodesTo [0b01100111] .asrA &&
      decodesTo [0b01101000, 0x5A] (.asrDir 0x5A) &&
      decodesTo [0b01101001, 0x5A] (.asrIdx 0x5A) &&
      decodesTo [0b01101010] .rlcA &&
      decodesTo [0b01101011, 0x5A] (.rlcDir 0x5A) &&
      decodesTo [0b01101100, 0x5A] (.rlcIdx 0x5A) &&
      decodesTo [0b01101101] .rrcA &&
      decodesTo [0b01101110, 0x5A] (.rrcDir 0x5A) &&
      decodesTo [0b01101111, 0x5A] (.rrcIdx 0x5A)) = true := by decide

/-- Byte 0 from 0x70 to 0x7F. -/
theorem test_decode_from70 :
    (decodesTo [0b01110000, 0x5A] (.andF 0x5A) &&
      decodesTo [0b01110001, 0x5A] (.orF 0x5A) &&
      decodesTo [0b01110010, 0x5A] (.xorF 0x5A) &&
      decodesTo [0b01110011] .cplA &&
      decodesTo [0b01110100] .incA &&
      decodesTo [0b01110101] .incX &&
      decodesTo [0b01110110, 0x5A] (.incDir 0x5A) &&
      decodesTo [0b01110111, 0x5A] (.incIdx 0x5A) &&
      decodesTo [0b01111000] .decA &&
      decodesTo [0b01111001] .decX &&
      decodesTo [0b01111010, 0x5A] (.decDir 0x5A) &&
      decodesTo [0b01111011, 0x5A] (.decIdx 0x5A) &&
      decodesTo [0b01111100, 0x12, 0x34] (.lcall 0x1234) &&
      decodesTo [0b01111101, 0x12, 0x34] (.ljmp 0x1234) &&
      decodesTo [0b01111110] .reti &&
      decodesTo [0b01111111] .ret) = true := by decide

/-- Byte 0 from 0x80 to 0xFF. -/
theorem test_decode_from80 :
    (decodesTo [0b10001010, 0x3C] (.jmp 0xA3C) &&
      decodesTo [0b10011010, 0x3C] (.call 0xA3C) &&
      decodesTo [0b10101010, 0x3C] (.jz 0xA3C) &&
      decodesTo [0b10111010, 0x3C] (.jnz 0xA3C) &&
      decodesTo [0b11001010, 0x3C] (.jc 0xA3C) &&
      decodesTo [0b11011010, 0x3C] (.jnc 0xA3C) &&
      decodesTo [0b11101010, 0x3C] (.jacc 0xA3C) &&
      decodesTo [0b11111010, 0x3C] (.index 0xA3C)) = true := by decide

/-- The bits of a word are numbered from byte 0: `JMP` with k12 = 0xFFD is 8F FD (30_encoding.md R134). -/
theorem test_decodeTableWord_jmp : decodeTableWord 16 0xFD8F = some (.jmp 0xFFD) := by decide

theorem test_decodeTableWord_lcall : decodeTableWord 24 0x05007C = some (.lcall 0x0005) := by decide

/-- Bits above `nbits` are 0. -/
theorem test_decodeTableWord_short : decodeTableWord 8 0xFF01 = some (.addAImm 0x00) := by decide

theorem test_withFetchWord_runs : step (State.reset.withFetchWord 16 0x5A50) =
    exec (.movAImm 0x5A) (State.reset.withFetchWord 16 0x5A50) := by rfl

theorem test_decode_truncated : decode [0x06, 0x07] = .truncated := by decide

/-! The vectors of 96_test_vectors_derived.md. -/

/-- V-ADD-1: `add A, 0x00` (R209). -/
theorem test_addAImm_first :
    gives (start 0x0200 [0x01, 0x00] 0x00 0x00 0x00 0x04 [] [] [])
      ⟨0x00, 0x00, 0x00, 0x02, 0x0202, [], []⟩ = true := by decide

/-- V-ADD-2: `add A, 0x01` (R209). -/
theorem test_addAImm_second :
    gives (start 0x0200 [0x01, 0x01] 0xFF 0x00 0x00 0x00 [] [] [])
      ⟨0x00, 0x00, 0x00, 0x06, 0x0202, [], []⟩ = true := by decide

/-- V-ADD-6: `add A, [0x40]` (R210). -/
theorem test_addADir_first :
    gives (start 0x0200 [0x02, 0x40] 0x12 0x00 0x00 0x00 [(0x40, 0x34)] [] [])
      ⟨0x46, 0x00, 0x00, 0x00, 0x0202, [(0x40, 0x34)], []⟩ = true := by decide

/-- V-ADD-7: `add A, [X+0x20]` (R211). -/
theorem test_addAIdx_first :
    gives (start 0x0200 [0x03, 0x20] 0x01 0xF0 0x00 0x00 [(0x10, 0x0F)] [] [])
      ⟨0x10, 0xF0, 0x00, 0x00, 0x0202, [(0x10, 0x0F)], []⟩ = true := by decide

/-- V-ADD-8: `add [0x40], A` (R212). -/
theorem test_addDirA_first :
    gives (start 0x0200 [0x04, 0x40] 0x01 0x00 0x00 0x00 [(0x40, 0xFF)] [] [])
      ⟨0x01, 0x00, 0x00, 0x06, 0x0202, [(0x40, 0x00)], []⟩ = true := by decide

/-- V-ADD-9: `add [X+0xFF], A` (R213). -/
theorem test_addIdxA_first :
    gives (start 0x0200 [0x05, 0xFF] 0x02 0x11 0x00 0x00 [(0x10, 0x03)] [] [])
      ⟨0x02, 0x11, 0x00, 0x00, 0x0202, [(0x10, 0x05)], []⟩ = true := by decide

/-- V-ADD-10: `add [0x40], 0x05` (R214). -/
theorem test_addDirImm_first :
    gives (start 0x0200 [0x06, 0x40, 0x05] 0x00 0x00 0x00 0x00 [(0x40, 0xFB)] [] [])
      ⟨0x00, 0x00, 0x00, 0x06, 0x0203, [(0x40, 0x00)], []⟩ = true := by decide

/-- V-ADD-11: `add [X+0x07], 0x05` (R215). -/
theorem test_addIdxImm_first :
    gives (start 0x0200 [0x07, 0x07, 0x05] 0x00 0x10 0x00 0x06 [(0x17, 0x20)] [] [])
      ⟨0x00, 0x10, 0x00, 0x00, 0x0203, [(0x17, 0x25)], []⟩ = true := by decide

/-- V-ADD-12: `add SP, 0x06` (R216). -/
theorem test_addSp_first :
    gives (start 0x0200 [0x38, 0x06] 0x00 0x00 0xFA 0x06 [] [] [])
      ⟨0x00, 0x00, 0x00, 0x06, 0x0202, [], []⟩ = true := by decide

/-- V-ADD-13: `add SP, 0xF0` (R216). -/
theorem test_addSp_second :
    gives (start 0x0200 [0x38, 0xF0] 0x00 0x00 0x10 0x01 [] [] [])
      ⟨0x00, 0x00, 0x00, 0x01, 0x0202, [], []⟩ = true := by decide

/-- V-ADD-14: `adc A, 0x00` (R202). -/
theorem test_adcAImm_first :
    gives (start 0x0200 [0x09, 0x00] 0xFF 0x00 0x00 0x04 [] [] [])
      ⟨0x00, 0x00, 0x00, 0x06, 0x0202, [], []⟩ = true := by decide

/-- V-ADD-15: `adc A, 0xFF` (R202). -/
theorem test_adcAImm_second :
    gives (start 0x0200 [0x09, 0xFF] 0xFF 0x00 0x00 0x04 [] [] [])
      ⟨0xFF, 0x00, 0x00, 0x04, 0x0202, [], []⟩ = true := by decide

/-- V-ADD-18: `adc A, [0x40]` (R203). -/
theorem test_adcADir_first :
    gives (start 0x0200 [0x0A, 0x40] 0x01 0x00 0x00 0x04 [(0x40, 0xFE)] [] [])
      ⟨0x00, 0x00, 0x00, 0x06, 0x0202, [(0x40, 0xFE)], []⟩ = true := by decide

/-- V-ADD-19: `adc A, [X+0x01]` (R204). -/
theorem test_adcAIdx_first :
    gives (start 0x0200 [0x0B, 0x01] 0x10 0x3F 0x00 0x00 [(0x40, 0x10)] [] [])
      ⟨0x20, 0x3F, 0x00, 0x00, 0x0202, [(0x40, 0x10)], []⟩ = true := by decide

/-- V-ADD-20: `adc [0x40], A` (R205). -/
theorem test_adcDirA_first :
    gives (start 0x0200 [0x0C, 0x40] 0x00 0x00 0x00 0x04 [(0x40, 0x7F)] [] [])
      ⟨0x00, 0x00, 0x00, 0x00, 0x0202, [(0x40, 0x80)], []⟩ = true := by decide

/-- V-ADD-21: `adc [X+0x00], A` (R206). -/
theorem test_adcIdxA_first :
    gives (start 0x0200 [0x0D, 0x00] 0x80 0x40 0x00 0x00 [(0x40, 0x80)] [] [])
      ⟨0x80, 0x40, 0x00, 0x06, 0x0202, [(0x40, 0x00)], []⟩ = true := by decide

/-- V-ADD-22: `adc [0x40], 0xFF` (R207). -/
theorem test_adcDirImm_first :
    gives (start 0x0200 [0x0E, 0x40, 0xFF] 0x00 0x00 0x00 0x04 [(0x40, 0x01)] [] [])
      ⟨0x00, 0x00, 0x00, 0x04, 0x0203, [(0x40, 0x01)], []⟩ = true := by decide

/-- V-ADD-23: `adc [X+0x10], 0x01` (R208). -/
theorem test_adcIdxImm_first :
    gives (start 0x0200 [0x0F, 0x10, 0x01] 0x00 0x30 0x00 0x15 [(0x40, 0xFF)] [] [])
      ⟨0x00, 0x30, 0x00, 0x15, 0x0203, [(0x40, 0x01)], []⟩ = true := by decide

/-- V-SUB-1: `sub A, 0x00` (R237). -/
theorem test_subAImm_first :
    gives (start 0x0200 [0x11, 0x00] 0x00 0x00 0x00 0x04 [] [] [])
      ⟨0x00, 0x00, 0x00, 0x02, 0x0202, [], []⟩ = true := by decide

/-- V-SUB-2: `sub A, 0x01` (R237). -/
theorem test_subAImm_second :
    gives (start 0x0200 [0x11, 0x01] 0x00 0x00 0x00 0x00 [] [] [])
      ⟨0xFF, 0x00, 0x00, 0x04, 0x0202, [], []⟩ = true := by decide

/-- V-SUB-6: `sub A, [0x40]` (R238). -/
theorem test_subADir_first :
    gives (start 0x0200 [0x12, 0x40] 0x50 0x00 0x00 0x00 [(0x40, 0x51)] [] [])
      ⟨0xFF, 0x00, 0x00, 0x04, 0x0202, [(0x40, 0x51)], []⟩ = true := by decide

/-- V-SUB-7: `sub A, [X+0x40]` (R239). -/
theorem test_subAIdx_first :
    gives (start 0x0200 [0x13, 0x40] 0x50 0x01 0x00 0x00 [(0x41, 0x10)] [] [])
      ⟨0x40, 0x01, 0x00, 0x00, 0x0202, [(0x41, 0x10)], []⟩ = true := by decide

/-- V-SUB-8: `sub [0x40], A` (R240). -/
theorem test_subDirA_first :
    gives (start 0x0200 [0x14, 0x40] 0x01 0x00 0x00 0x00 [(0x40, 0x01)] [] [])
      ⟨0x01, 0x00, 0x00, 0x02, 0x0202, [(0x40, 0x00)], []⟩ = true := by decide

/-- V-SUB-9: `sub [X+0x40], A` (R241). -/
theorem test_subIdxA_first :
    gives (start 0x0200 [0x15, 0x40] 0x02 0x02 0x00 0x00 [(0x42, 0x01)] [] [])
      ⟨0x02, 0x02, 0x00, 0x04, 0x0202, [(0x42, 0xFF)], []⟩ = true := by decide

/-- V-SUB-10: `sub [0x40], 0x10` (R242). -/
theorem test_subDirImm_first :
    gives (start 0x0200 [0x16, 0x40, 0x10] 0x00 0x00 0x00 0x00 [(0x40, 0x20)] [] [])
      ⟨0x00, 0x00, 0x00, 0x00, 0x0203, [(0x40, 0x10)], []⟩ = true := by decide

/-- V-SUB-11: `sub [X+0xFE], 0x01` (R243). -/
theorem test_subIdxImm_first :
    gives (start 0x0200 [0x17, 0xFE, 0x01] 0x00 0x42 0x00 0x00 [(0x40, 0x00)] [] [])
      ⟨0x00, 0x42, 0x00, 0x04, 0x0203, [(0x40, 0xFF)], []⟩ = true := by decide

/-- V-SUB-12: `sbb A, 0x00` (R230). -/
theorem test_sbbAImm_first :
    gives (start 0x0200 [0x19, 0x00] 0x00 0x00 0x00 0x04 [] [] [])
      ⟨0xFF, 0x00, 0x00, 0x04, 0x0202, [], []⟩ = true := by decide

/-- V-SUB-13: `sbb A, 0xFF` (R230). -/
theorem test_sbbAImm_second :
    gives (start 0x0200 [0x19, 0xFF] 0x00 0x00 0x00 0x04 [] [] [])
      ⟨0x00, 0x00, 0x00, 0x06, 0x0202, [], []⟩ = true := by decide

/-- V-SUB-16: `sbb A, [0x40]` (R231). -/
theorem test_sbbADir_first :
    gives (start 0x0200 [0x1A, 0x40] 0x00 0x00 0x00 0x00 [(0x40, 0x00)] [] [])
      ⟨0x00, 0x00, 0x00, 0x02, 0x0202, [(0x40, 0x00)], []⟩ = true := by decide

/-- V-SUB-17: `sbb A, [X+0x40]` (R232). -/
theorem test_sbbAIdx_first :
    gives (start 0x0200 [0x1B, 0x40] 0x80 0x00 0x00 0x04 [(0x40, 0x7F)] [] [])
      ⟨0x00, 0x00, 0x00, 0x02, 0x0202, [(0x40, 0x7F)], []⟩ = true := by decide

/-- V-SUB-18: `sbb [0x40], A` (R233). -/
theorem test_sbbDirA_first :
    gives (start 0x0200 [0x1C, 0x40] 0x01 0x00 0x00 0x00 [(0x40, 0x00)] [] [])
      ⟨0x01, 0x00, 0x00, 0x04, 0x0202, [(0x40, 0xFF)], []⟩ = true := by decide

/-- V-SUB-19: `sbb [X+0x40], A` (R234). -/
theorem test_sbbIdxA_first :
    gives (start 0x0200 [0x1D, 0x40] 0xFF 0x01 0x00 0x04 [(0x41, 0xFF)] [] [])
      ⟨0xFF, 0x01, 0x00, 0x04, 0x0202, [(0x41, 0xFF)], []⟩ = true := by decide

/-- V-SUB-20: `sbb [0x40], 0x01` (R235). -/
theorem test_sbbDirImm_first :
    gives (start 0x0200 [0x1E, 0x40, 0x01] 0x00 0x00 0x00 0x04 [(0x40, 0x02)] [] [])
      ⟨0x00, 0x00, 0x00, 0x02, 0x0203, [(0x40, 0x00)], []⟩ = true := by decide

/-- V-SUB-21: `sbb [X+0x40], 0x80` (R236). -/
theorem test_sbbIdxImm_first :
    gives (start 0x0200 [0x1F, 0x40, 0x80] 0x00 0x02 0x00 0x00 [(0x42, 0x80)] [] [])
      ⟨0x00, 0x02, 0x00, 0x02, 0x0203, [(0x42, 0x00)], []⟩ = true := by decide

/-- V-SUB-22: `cmp A, 0x22` (R217). -/
theorem test_cmpAImm_first :
    gives (start 0x0200 [0x39, 0x22] 0x22 0x00 0x00 0x04 [] [] [])
      ⟨0x22, 0x00, 0x00, 0x02, 0x0202, [], []⟩ = true := by decide

/-- V-SUB-23: `cmp A, 0x23` (R217). -/
theorem test_cmpAImm_second :
    gives (start 0x0200 [0x39, 0x23] 0x22 0x00 0x00 0x00 [] [] [])
      ⟨0x22, 0x00, 0x00, 0x04, 0x0202, [], []⟩ = true := by decide

/-- V-SUB-24: `cmp A, [0x40]` (R218). -/
theorem test_cmpADir_first :
    gives (start 0x0200 [0x3A, 0x40] 0x80 0x00 0x00 0x00 [(0x40, 0x7F)] [] [])
      ⟨0x80, 0x00, 0x00, 0x00, 0x0202, [(0x40, 0x7F)], []⟩ = true := by decide

/-- V-SUB-25: `cmp A, [X+0x40]` (R219). -/
theorem test_cmpAIdx_first :
    gives (start 0x0200 [0x3B, 0x40] 0x00 0x01 0x00 0x00 [(0x41, 0x01)] [] [])
      ⟨0x00, 0x01, 0x00, 0x04, 0x0202, [(0x41, 0x01)], []⟩ = true := by decide

/-- V-SUB-26: `cmp [0x40], 0x40` (R220). -/
theorem test_cmpDirImm_first :
    gives (start 0x0200 [0x3C, 0x40, 0x40] 0x00 0x00 0x00 0x00 [(0x40, 0x40)] [] [])
      ⟨0x00, 0x00, 0x00, 0x02, 0x0203, [(0x40, 0x40)], []⟩ = true := by decide

/-- V-SUB-27: `cmp [X+0x40], 0xFF` (R221). -/
theorem test_cmpIdxImm_first :
    gives (start 0x0200 [0x3D, 0x40, 0xFF] 0x00 0x03 0x00 0x00 [(0x43, 0xFE)] [] [])
      ⟨0x00, 0x03, 0x00, 0x04, 0x0203, [(0x43, 0xFE)], []⟩ = true := by decide

/-- V-INC-1: `inc A` (R226). -/
theorem test_incA_first :
    gives (start 0x0200 [0x74] 0xFF 0x00 0x00 0x00 [] [] [])
      ⟨0x00, 0x00, 0x00, 0x06, 0x0201, [], []⟩ = true := by decide

/-- V-INC-2: `inc A` (R226). -/
theorem test_incA_second :
    gives (start 0x0200 [0x74] 0x7F 0x00 0x00 0x06 [] [] [])
      ⟨0x80, 0x00, 0x00, 0x00, 0x0201, [], []⟩ = true := by decide

/-- V-INC-3: `inc X` (R227). -/
theorem test_incX_first :
    gives (start 0x0200 [0x75] 0x00 0xFF 0x00 0x00 [] [] [])
      ⟨0x00, 0x00, 0x00, 0x06, 0x0201, [], []⟩ = true := by decide

/-- V-INC-4: `inc X` (R227). -/
theorem test_incX_second :
    gives (start 0x0200 [0x75] 0x00 0x00 0x00 0x06 [] [] [])
      ⟨0x00, 0x01, 0x00, 0x00, 0x0201, [], []⟩ = true := by decide

/-- V-INC-5: `inc [0x40]` (R228). -/
theorem test_incDir_first :
    gives (start 0x0200 [0x76, 0x40] 0x00 0x00 0x00 0x00 [(0x40, 0xFE)] [] [])
      ⟨0x00, 0x00, 0x00, 0x00, 0x0202, [(0x40, 0xFF)], []⟩ = true := by decide

/-- V-INC-6: `inc [X+0x40]` (R229). -/
theorem test_incIdx_first :
    gives (start 0x0200 [0x77, 0x40] 0x00 0xC0 0x00 0x00 [(0x0, 0xFF)] [] [])
      ⟨0x00, 0xC0, 0x00, 0x06, 0x0202, [(0x0, 0x00)], []⟩ = true := by decide

/-- V-INC-7: `dec A` (R222). -/
theorem test_decA_first :
    gives (start 0x0200 [0x78] 0x00 0x00 0x00 0x00 [] [] [])
      ⟨0xFF, 0x00, 0x00, 0x04, 0x0201, [], []⟩ = true := by decide

/-- V-INC-8: `dec A` (R222). -/
theorem test_decA_second :
    gives (start 0x0200 [0x78] 0x01 0x00 0x00 0x04 [] [] [])
      ⟨0x00, 0x00, 0x00, 0x02, 0x0201, [], []⟩ = true := by decide

/-- V-INC-10: `dec X` (R223). -/
theorem test_decX_first :
    gives (start 0x0200 [0x79] 0x00 0x00 0x00 0x00 [] [] [])
      ⟨0x00, 0xFF, 0x00, 0x04, 0x0201, [], []⟩ = true := by decide

/-- V-INC-11: `dec X` (R223). -/
theorem test_decX_second :
    gives (start 0x0200 [0x79] 0x00 0x01 0x00 0x00 [] [] [])
      ⟨0x00, 0x00, 0x00, 0x02, 0x0201, [], []⟩ = true := by decide

/-- V-INC-12: `dec [0x40]` (R224). -/
theorem test_decDir_first :
    gives (start 0x0200 [0x7A, 0x40] 0x00 0x00 0x00 0x00 [(0x40, 0x00)] [] [])
      ⟨0x00, 0x00, 0x00, 0x04, 0x0202, [(0x40, 0xFF)], []⟩ = true := by decide

/-- V-INC-13: `dec [X+0x40]` (R225). -/
theorem test_decIdx_first :
    gives (start 0x0200 [0x7B, 0x40] 0x00 0x01 0x00 0x06 [(0x41, 0x02)] [] [])
      ⟨0x00, 0x01, 0x00, 0x00, 0x0202, [(0x41, 0x01)], []⟩ = true := by decide

/-- V-LOG-1: `and A, 0x0F` (R263). -/
theorem test_andAImm_first :
    gives (start 0x0200 [0x21, 0x0F] 0xF0 0x00 0x00 0x04 [] [] [])
      ⟨0x00, 0x00, 0x00, 0x06, 0x0202, [], []⟩ = true := by decide

/-- V-LOG-2: `and A, 0xFF` (R263). -/
theorem test_andAImm_second :
    gives (start 0x0200 [0x21, 0xFF] 0x80 0x00 0x00 0x02 [] [] [])
      ⟨0x80, 0x00, 0x00, 0x00, 0x0202, [], []⟩ = true := by decide

/-- V-LOG-3: `and A, [0x40]` (R264). -/
theorem test_andADir_first :
    gives (start 0x0200 [0x22, 0x40] 0x3C 0x00 0x00 0x00 [(0x40, 0x0F)] [] [])
      ⟨0x0C, 0x00, 0x00, 0x00, 0x0202, [(0x40, 0x0F)], []⟩ = true := by decide

/-- V-LOG-4: `and A, [X+0x40]` (R265). -/
theorem test_andAIdx_first :
    gives (start 0x0200 [0x23, 0x40] 0xFF 0x01 0x00 0x00 [(0x41, 0x00)] [] [])
      ⟨0x00, 0x01, 0x00, 0x02, 0x0202, [(0x41, 0x00)], []⟩ = true := by decide

/-- V-LOG-5: `and [0x40], A` (R266). -/
theorem test_andDirA_first :
    gives (start 0x0200 [0x24, 0x40] 0x0F 0x00 0x00 0x00 [(0x40, 0xAA)] [] [])
      ⟨0x0F, 0x00, 0x00, 0x00, 0x0202, [(0x40, 0x0A)], []⟩ = true := by decide

/-- V-LOG-6: `and [X+0x40], A` (R267). -/
theorem test_andIdxA_first :
    gives (start 0x0200 [0x25, 0x40] 0x00 0x02 0x00 0x00 [(0x42, 0xFF)] [] [])
      ⟨0x00, 0x02, 0x00, 0x02, 0x0202, [(0x42, 0x00)], []⟩ = true := by decide

/-- V-LOG-7: `and [0x40], 0xF0` (R268). -/
theorem test_andDirImm_first :
    gives (start 0x0200 [0x26, 0x40, 0xF0] 0x00 0x00 0x00 0x00 [(0x40, 0x5A)] [] [])
      ⟨0x00, 0x00, 0x00, 0x00, 0x0203, [(0x40, 0x50)], []⟩ = true := by decide

/-- V-LOG-8: `and [X+0x40], 0x01` (R269). -/
theorem test_andIdxImm_first :
    gives (start 0x0200 [0x27, 0x40, 0x01] 0x00 0x03 0x00 0x00 [(0x43, 0xFE)] [] [])
      ⟨0x00, 0x03, 0x00, 0x02, 0x0203, [(0x43, 0x00)], []⟩ = true := by decide

/-- V-LOG-9: `and reg[0x08], 0x0F` (R270). -/
theorem test_andReg_first :
    gives (start 0x0200 [0x41, 0x08, 0x0F] 0x00 0x00 0x00 0x00 [] [(0x8, 0x3C)] [])
      ⟨0x00, 0x00, 0x00, 0x00, 0x0203, [], [⟨.write, 0x8, 0x0C⟩]⟩ = true := by decide

/-- V-LOG-10: `and reg[X+0x08], 0xF0` (R271). -/
theorem test_andRegIdx_first :
    gives (start 0x0200 [0x42, 0x08, 0xF0] 0x00 0x01 0x00 0x10 [] [(0x109, 0xFF)] [])
      ⟨0x00, 0x01, 0x00, 0x10, 0x0203, [], [⟨.write, 0x109, 0xF0⟩]⟩ = true := by decide

/-- V-LOG-11: `and F, 0xFB` (R272). -/
theorem test_andF_first :
    gives (start 0x0200 [0x70, 0xFB] 0x00 0x00 0x00 0x07 [] [] [])
      ⟨0x00, 0x00, 0x00, 0x03, 0x0202, [], []⟩ = true := by decide

/-- V-LOG-12: `and F, 0xFE` (R272). -/
theorem test_andF_second :
    gives (start 0x0200 [0x70, 0xFE] 0x00 0x00 0x00 0x17 [] [] [])
      ⟨0x00, 0x00, 0x00, 0x16, 0x0202, [], []⟩ = true := by decide

/-- V-LOG-14: `or A, 0x00` (R274). -/
theorem test_orAImm_first :
    gives (start 0x0200 [0x29, 0x00] 0x00 0x00 0x00 0x04 [] [] [])
      ⟨0x00, 0x00, 0x00, 0x06, 0x0202, [], []⟩ = true := by decide

/-- V-LOG-15: `or A, 0x80` (R274). -/
theorem test_orAImm_second :
    gives (start 0x0200 [0x29, 0x80] 0x01 0x00 0x00 0x00 [] [] [])
      ⟨0x81, 0x00, 0x00, 0x00, 0x0202, [], []⟩ = true := by decide

/-- V-LOG-16: `or A, [0x40]` (R275). -/
theorem test_orADir_first :
    gives (start 0x0200 [0x2A, 0x40] 0x0F 0x00 0x00 0x00 [(0x40, 0xF0)] [] [])
      ⟨0xFF, 0x00, 0x00, 0x00, 0x0202, [(0x40, 0xF0)], []⟩ = true := by decide

/-- V-LOG-17: `or A, [X+0x40]` (R276). -/
theorem test_orAIdx_first :
    gives (start 0x0200 [0x2B, 0x40] 0x00 0x01 0x00 0x00 [(0x41, 0x00)] [] [])
      ⟨0x00, 0x01, 0x00, 0x02, 0x0202, [(0x41, 0x00)], []⟩ = true := by decide

/-- V-LOG-18: `or [0x40], A` (R277). -/
theorem test_orDirA_first :
    gives (start 0x0200 [0x2C, 0x40] 0x01 0x00 0x00 0x00 [(0x40, 0x80)] [] [])
      ⟨0x01, 0x00, 0x00, 0x00, 0x0202, [(0x40, 0x81)], []⟩ = true := by decide

/-- V-LOG-19: `or [X+0x40], A` (R278). -/
theorem test_orIdxA_first :
    gives (start 0x0200 [0x2D, 0x40] 0x00 0x02 0x00 0x00 [(0x42, 0x00)] [] [])
      ⟨0x00, 0x02, 0x00, 0x02, 0x0202, [(0x42, 0x00)], []⟩ = true := by decide

/-- V-LOG-20: `or [0x40], 0x0F` (R279). -/
theorem test_orDirImm_first :
    gives (start 0x0200 [0x2E, 0x40, 0x0F] 0x00 0x00 0x00 0x00 [(0x40, 0x30)] [] [])
      ⟨0x00, 0x00, 0x00, 0x00, 0x0203, [(0x40, 0x3F)], []⟩ = true := by decide

/-- V-LOG-21: `or [X+0x40], 0x80` (R280). -/
theorem test_orIdxImm_first :
    gives (start 0x0200 [0x2F, 0x40, 0x80] 0x00 0x03 0x00 0x00 [(0x43, 0x01)] [] [])
      ⟨0x00, 0x03, 0x00, 0x00, 0x0203, [(0x43, 0x81)], []⟩ = true := by decide

/-- V-LOG-22: `or reg[0x08], 0x81` (R281). -/
theorem test_orReg_first :
    gives (start 0x0200 [0x43, 0x08, 0x81] 0x00 0x00 0x00 0x00 [] [(0x8, 0x02)] [])
      ⟨0x00, 0x00, 0x00, 0x00, 0x0203, [], [⟨.write, 0x8, 0x83⟩]⟩ = true := by decide

/-- V-LOG-23: `or reg[X+0x08], 0x00` (R282). -/
theorem test_orRegIdx_first :
    gives (start 0x0200 [0x44, 0x08, 0x00] 0x00 0x01 0x00 0x00 [] [(0x9, 0x00)] [])
      ⟨0x00, 0x01, 0x00, 0x02, 0x0203, [], [⟨.write, 0x9, 0x00⟩]⟩ = true := by decide

/-- V-LOG-24: `or F, 0x04` (R283). -/
theorem test_orF_first :
    gives (start 0x0200 [0x71, 0x04] 0x00 0x00 0x00 0x00 [] [] [])
      ⟨0x00, 0x00, 0x00, 0x04, 0x0202, [], []⟩ = true := by decide

/-- V-LOG-25: `or F, 0x10` (R283). -/
theorem test_orF_second :
    gives (start 0x0200 [0x71, 0x10] 0x00 0x00 0x00 0x02 [] [] [])
      ⟨0x00, 0x00, 0x00, 0x12, 0x0202, [], []⟩ = true := by decide

/-- V-LOG-28: `xor A, 0xFF` (R288). -/
theorem test_xorAImm_first :
    gives (start 0x0200 [0x31, 0xFF] 0xFF 0x00 0x00 0x04 [] [] [])
      ⟨0x00, 0x00, 0x00, 0x06, 0x0202, [], []⟩ = true := by decide

/-- V-LOG-29: `xor A, 0x0F` (R288). -/
theorem test_xorAImm_second :
    gives (start 0x0200 [0x31, 0x0F] 0xAA 0x00 0x00 0x00 [] [] [])
      ⟨0xA5, 0x00, 0x00, 0x00, 0x0202, [], []⟩ = true := by decide

/-- V-LOG-30: `xor A, [0x40]` (R289). -/
theorem test_xorADir_first :
    gives (start 0x0200 [0x32, 0x40] 0x55 0x00 0x00 0x00 [(0x40, 0x55)] [] [])
      ⟨0x00, 0x00, 0x00, 0x02, 0x0202, [(0x40, 0x55)], []⟩ = true := by decide

/-- V-LOG-31: `xor A, [X+0x40]` (R290). -/
theorem test_xorAIdx_first :
    gives (start 0x0200 [0x33, 0x40] 0x01 0x01 0x00 0x00 [(0x41, 0x80)] [] [])
      ⟨0x81, 0x01, 0x00, 0x00, 0x0202, [(0x41, 0x80)], []⟩ = true := by decide

/-- V-LOG-32: `xor [0x40], A` (R291). -/
theorem test_xorDirA_first :
    gives (start 0x0200 [0x34, 0x40] 0xFF 0x00 0x00 0x00 [(0x40, 0x0F)] [] [])
      ⟨0xFF, 0x00, 0x00, 0x00, 0x0202, [(0x40, 0xF0)], []⟩ = true := by decide

/-- V-LOG-33: `xor [X+0x40], A` (R292). -/
theorem test_xorIdxA_first :
    gives (start 0x0200 [0x35, 0x40] 0x3C 0x02 0x00 0x00 [(0x42, 0x3C)] [] [])
      ⟨0x3C, 0x02, 0x00, 0x02, 0x0202, [(0x42, 0x00)], []⟩ = true := by decide

/-- V-LOG-34: `xor [0x40], 0x01` (R293). -/
theorem test_xorDirImm_first :
    gives (start 0x0200 [0x36, 0x40, 0x01] 0x00 0x00 0x00 0x00 [(0x40, 0x00)] [] [])
      ⟨0x00, 0x00, 0x00, 0x00, 0x0203, [(0x40, 0x01)], []⟩ = true := by decide

/-- V-LOG-35: `xor [X+0x40], 0xFF` (R294). -/
theorem test_xorIdxImm_first :
    gives (start 0x0200 [0x37, 0x40, 0xFF] 0x00 0x03 0x00 0x00 [(0x43, 0x00)] [] [])
      ⟨0x00, 0x03, 0x00, 0x00, 0x0203, [(0x43, 0xFF)], []⟩ = true := by decide

/-- V-LOG-36: `xor reg[0x08], 0xFF` (R295). -/
theorem test_xorReg_first :
    gives (start 0x0200 [0x45, 0x08, 0xFF] 0x00 0x00 0x00 0x00 [] [(0x8, 0xFF)] [])
      ⟨0x00, 0x00, 0x00, 0x02, 0x0203, [], [⟨.write, 0x8, 0x00⟩]⟩ = true := by decide

/-- V-LOG-37: `xor reg[X+0x08], 0x01` (R296). -/
theorem test_xorRegIdx_first :
    gives (start 0x0200 [0x46, 0x08, 0x01] 0x00 0x01 0x00 0x10 [] [(0x109, 0x02)] [])
      ⟨0x00, 0x01, 0x00, 0x10, 0x0203, [], [⟨.write, 0x109, 0x03⟩]⟩ = true := by decide

/-- V-LOG-38: `xor F, 0x06` (R297). -/
theorem test_xorF_first :
    gives (start 0x0200 [0x72, 0x06] 0x00 0x00 0x00 0x04 [] [] [])
      ⟨0x00, 0x00, 0x00, 0x02, 0x0202, [], []⟩ = true := by decide

/-- V-LOG-39: `xor F, 0x10` (R297). -/
theorem test_xorF_second :
    gives (start 0x0200 [0x72, 0x10] 0x00 0x00 0x00 0x12 [] [] [])
      ⟨0x00, 0x00, 0x00, 0x02, 0x0202, [], []⟩ = true := by decide

/-- V-LOG-40: `tst [0x40], 0x80` (R284). -/
theorem test_tstDir_first :
    gives (start 0x0200 [0x47, 0x40, 0x80] 0x00 0x00 0x00 0x04 [(0x40, 0x7F)] [] [])
      ⟨0x00, 0x00, 0x00, 0x06, 0x0203, [(0x40, 0x7F)], []⟩ = true := by decide

/-- V-LOG-41: `tst [0x40], 0x01` (R284). -/
theorem test_tstDir_second :
    gives (start 0x0200 [0x47, 0x40, 0x01] 0x00 0x00 0x00 0x02 [(0x40, 0x01)] [] [])
      ⟨0x00, 0x00, 0x00, 0x00, 0x0203, [(0x40, 0x01)], []⟩ = true := by decide

/-- V-LOG-42: `tst [X+0x40], 0xFF` (R285). -/
theorem test_tstIdx_first :
    gives (start 0x0200 [0x48, 0x40, 0xFF] 0x00 0x01 0x00 0x00 [(0x41, 0x00)] [] [])
      ⟨0x00, 0x01, 0x00, 0x02, 0x0203, [(0x41, 0x00)], []⟩ = true := by decide

/-- V-LOG-43: `tst reg[0x08], 0x10` (R286). -/
theorem test_tstReg_first :
    gives (start 0x0200 [0x49, 0x08, 0x10] 0x00 0x00 0x00 0x00 [] [(0x8, 0x10)] [])
      ⟨0x00, 0x00, 0x00, 0x00, 0x0203, [], []⟩ = true := by decide

/-- V-LOG-44: `tst reg[X+0x08], 0x10` (R287). -/
theorem test_tstRegIdx_first :
    gives (start 0x0200 [0x4A, 0x08, 0x10] 0x00 0x01 0x00 0x00 [] [(0x9, 0xEF)] [])
      ⟨0x00, 0x01, 0x00, 0x02, 0x0203, [], []⟩ = true := by decide

/-- V-LOG-45: `tst reg[0xF7], 0x04` (R286). -/
theorem test_tstReg_second :
    gives (start 0x0200 [0x49, 0xF7, 0x04] 0x00 0x00 0x00 0x04 [] [] [])
      ⟨0x00, 0x00, 0x00, 0x04, 0x0203, [], []⟩ = true := by decide

/-- V-LOG-46: `and reg[0xF7], 0x00` (R270). -/
theorem test_andReg_second :
    gives (start 0x0200 [0x41, 0xF7, 0x00] 0x00 0x00 0x00 0x05 [] [] [])
      ⟨0x00, 0x00, 0x00, 0x07, 0x0203, [], [⟨.write, 0xF7, 0x00⟩]⟩ = true := by decide

/-- V-LOG-47: `cpl A` (R273). -/
theorem test_cplA_first :
    gives (start 0x0200 [0x73] 0x00 0x00 0x00 0x06 [] [] [])
      ⟨0xFF, 0x00, 0x00, 0x04, 0x0201, [], []⟩ = true := by decide

/-- V-LOG-48: `cpl A` (R273). -/
theorem test_cplA_second :
    gives (start 0x0200 [0x73] 0xFF 0x00 0x00 0x00 [] [] [])
      ⟨0x00, 0x00, 0x00, 0x02, 0x0201, [], []⟩ = true := by decide

/-- V-SHF-1: `asl A` (R311). -/
theorem test_aslA_first :
    gives (start 0x0200 [0x64] 0x80 0x00 0x00 0x00 [] [] [])
      ⟨0x00, 0x00, 0x00, 0x06, 0x0201, [], []⟩ = true := by decide

/-- V-SHF-2: `asl A` (R311). -/
theorem test_aslA_second :
    gives (start 0x0200 [0x64] 0x40 0x00 0x00 0x06 [] [] [])
      ⟨0x80, 0x00, 0x00, 0x00, 0x0201, [], []⟩ = true := by decide

/-- V-SHF-4: `asl [0x40]` (R312). -/
theorem test_aslDir_first :
    gives (start 0x0200 [0x65, 0x40] 0x00 0x00 0x00 0x04 [(0x40, 0x01)] [] [])
      ⟨0x00, 0x00, 0x00, 0x00, 0x0202, [(0x40, 0x02)], []⟩ = true := by decide

/-- V-SHF-5: `asl [X+0x40]` (R313). -/
theorem test_aslIdx_first :
    gives (start 0x0200 [0x66, 0x40] 0x00 0x01 0x00 0x00 [(0x41, 0xC0)] [] [])
      ⟨0x00, 0x01, 0x00, 0x04, 0x0202, [(0x41, 0x80)], []⟩ = true := by decide

/-- V-SHF-6: `asr A` (R314). -/
theorem test_asrA_first :
    gives (start 0x0200 [0x67] 0x80 0x00 0x00 0x00 [] [] [])
      ⟨0xC0, 0x00, 0x00, 0x00, 0x0201, [], []⟩ = true := by decide

/-- V-SHF-7: `asr A` (R314). -/
theorem test_asrA_second :
    gives (start 0x0200 [0x67] 0x01 0x00 0x00 0x00 [] [] [])
      ⟨0x00, 0x00, 0x00, 0x06, 0x0201, [], []⟩ = true := by decide

/-- V-SHF-9: `asr [0x40]` (R315). -/
theorem test_asrDir_first :
    gives (start 0x0200 [0x68, 0x40] 0x00 0x00 0x00 0x04 [(0x40, 0xFE)] [] [])
      ⟨0x00, 0x00, 0x00, 0x00, 0x0202, [(0x40, 0xFF)], []⟩ = true := by decide

/-- V-SHF-10: `asr [X+0x40]` (R316). -/
theorem test_asrIdx_first :
    gives (start 0x0200 [0x69, 0x40] 0x00 0x01 0x00 0x00 [(0x41, 0x03)] [] [])
      ⟨0x00, 0x01, 0x00, 0x04, 0x0202, [(0x41, 0x01)], []⟩ = true := by decide

/-- V-SHF-11: `rlc A` (R317). -/
theorem test_rlcA_first :
    gives (start 0x0200 [0x6A] 0x80 0x00 0x00 0x00 [] [] [])
      ⟨0x00, 0x00, 0x00, 0x06, 0x0201, [], []⟩ = true := by decide

/-- V-SHF-12: `rlc A` (R317). -/
theorem test_rlcA_second :
    gives (start 0x0200 [0x6A] 0x80 0x00 0x00 0x04 [] [] [])
      ⟨0x01, 0x00, 0x00, 0x04, 0x0201, [], []⟩ = true := by decide

/-- V-SHF-14: `rlc [0x40]` (R318). -/
theorem test_rlcDir_first :
    gives (start 0x0200 [0x6B, 0x40] 0x00 0x00 0x00 0x04 [(0x40, 0x55)] [] [])
      ⟨0x00, 0x00, 0x00, 0x00, 0x0202, [(0x40, 0xAB)], []⟩ = true := by decide

/-- V-SHF-15: `rlc [X+0x40]` (R319). -/
theorem test_rlcIdx_first :
    gives (start 0x0200 [0x6C, 0x40] 0x00 0x01 0x00 0x00 [(0x41, 0xFF)] [] [])
      ⟨0x00, 0x01, 0x00, 0x04, 0x0202, [(0x41, 0xFE)], []⟩ = true := by decide

/-- V-SHF-16: `rrc A` (R320). -/
theorem test_rrcA_first :
    gives (start 0x0200 [0x6D] 0x01 0x00 0x00 0x00 [] [] [])
      ⟨0x00, 0x00, 0x00, 0x06, 0x0201, [], []⟩ = true := by decide

/-- V-SHF-17: `rrc A` (R320). -/
theorem test_rrcA_second :
    gives (start 0x0200 [0x6D] 0x01 0x00 0x00 0x04 [] [] [])
      ⟨0x80, 0x00, 0x00, 0x04, 0x0201, [], []⟩ = true := by decide

/-- V-SHF-19: `rrc [0x40]` (R321). -/
theorem test_rrcDir_first :
    gives (start 0x0200 [0x6E, 0x40] 0x00 0x00 0x00 0x04 [(0x40, 0xAA)] [] [])
      ⟨0x00, 0x00, 0x00, 0x00, 0x0202, [(0x40, 0xD5)], []⟩ = true := by decide

/-- V-SHF-20: `rrc [X+0x40]` (R322). -/
theorem test_rrcIdx_first :
    gives (start 0x0200 [0x6F, 0x40] 0x00 0x01 0x00 0x00 [(0x41, 0xFF)] [] [])
      ⟨0x00, 0x01, 0x00, 0x04, 0x0202, [(0x41, 0x7F)], []⟩ = true := by decide

/-- V-CTL-1: `jmp 0x0201` (R335). -/
theorem test_jmp_first :
    gives (start 0x0200 [0x80, 0x00] 0x00 0x00 0x00 0x00 [] [] [])
      ⟨0x00, 0x00, 0x00, 0x00, 0x0201, [], []⟩ = true := by decide

/-- V-CTL-2: `jmp 0x0200` (R335). -/
theorem test_jmp_second :
    gives (start 0x0200 [0x8F, 0xFF] 0x00 0x00 0x00 0x00 [] [] [])
      ⟨0x00, 0x00, 0x00, 0x00, 0x0200, [], []⟩ = true := by decide

/-- V-CTL-6: `jz 0x0210` (R338). -/
theorem test_jz_first :
    gives (start 0x0200 [0xA0, 0x0F] 0x00 0x00 0x00 0x02 [] [] [])
      ⟨0x00, 0x00, 0x00, 0x02, 0x0210, [], []⟩ = true := by decide

/-- V-CTL-7: `jz 0x0210` (R338). -/
theorem test_jz_second :
    gives (start 0x0200 [0xA0, 0x0F] 0x00 0x00 0x00 0x04 [] [] [])
      ⟨0x00, 0x00, 0x00, 0x04, 0x0202, [], []⟩ = true := by decide

/-- V-CTL-8: `jnz 0x0210` (R337). -/
theorem test_jnz_first :
    gives (start 0x0200 [0xB0, 0x0F] 0x00 0x00 0x00 0x00 [] [] [])
      ⟨0x00, 0x00, 0x00, 0x00, 0x0210, [], []⟩ = true := by decide

/-- V-CTL-9: `jnz 0x0210` (R337). -/
theorem test_jnz_second :
    gives (start 0x0200 [0xB0, 0x0F] 0x00 0x00 0x00 0x02 [] [] [])
      ⟨0x00, 0x00, 0x00, 0x02, 0x0202, [], []⟩ = true := by decide

/-- V-CTL-10: `jc 0x01F0` (R334). -/
theorem test_jc_first :
    gives (start 0x0200 [0xCF, 0xEF] 0x00 0x00 0x00 0x04 [] [] [])
      ⟨0x00, 0x00, 0x00, 0x04, 0x01F0, [], []⟩ = true := by decide

/-- V-CTL-11: `jc 0x01F0` (R334). -/
theorem test_jc_second :
    gives (start 0x0200 [0xCF, 0xEF] 0x00 0x00 0x00 0x02 [] [] [])
      ⟨0x00, 0x00, 0x00, 0x02, 0x0202, [], []⟩ = true := by decide

/-- V-CTL-12: `jnc 0x0210` (R336). -/
theorem test_jnc_first :
    gives (start 0x0200 [0xD0, 0x0F] 0x00 0x00 0x00 0x02 [] [] [])
      ⟨0x00, 0x00, 0x00, 0x02, 0x0210, [], []⟩ = true := by decide

/-- V-CTL-13: `jnc 0x0210` (R336). -/
theorem test_jnc_second :
    gives (start 0x0200 [0xD0, 0x0F] 0x00 0x00 0x00 0x04 [] [] [])
      ⟨0x00, 0x00, 0x00, 0x04, 0x0202, [], []⟩ = true := by decide

/-- V-CTL-14: `jacc 0x0210` (R333). -/
theorem test_jacc_first :
    gives (start 0x0200 [0xE0, 0x0F] 0x00 0x00 0x00 0x00 [] [] [])
      ⟨0x00, 0x00, 0x00, 0x00, 0x0210, [], []⟩ = true := by decide

/-- V-CTL-15: `jacc 0x0210` (R333). -/
theorem test_jacc_second :
    gives (start 0x0200 [0xE0, 0x0F] 0xFF 0x00 0x00 0x00 [] [] [])
      ⟨0xFF, 0x00, 0x00, 0x00, 0x030F, [], []⟩ = true := by decide

/-- V-CTL-17: `call 0x0300` (R332). -/
theorem test_call_first :
    gives (start 0x0200 [0x90, 0xFE] 0x00 0x00 0x10 0x00 [] [] [])
      ⟨0x00, 0x00, 0x12, 0x00, 0x0300, [(0x10, 0x02), (0x11, 0x02)], []⟩ = true := by decide

/-- V-CTL-18: `call 0x0300` (R332). -/
theorem test_call_second :
    gives (start 0x0200 [0x90, 0xFE] 0x00 0x00 0xFF 0x00 [] [] [])
      ⟨0x00, 0x00, 0x01, 0x00, 0x0300, [(0x0, 0x02), (0xFF, 0x02)], []⟩ = true := by decide

/-- V-CTL-21: `lcall 0x1234` (R339). -/
theorem test_lcall_first :
    gives (start 0x0200 [0x7C, 0x12, 0x34] 0x00 0x00 0x10 0x00 [] [] [])
      ⟨0x00, 0x00, 0x12, 0x00, 0x1234, [(0x10, 0x02), (0x11, 0x03)], []⟩ = true := by decide

/-- V-CTL-22: `lcall 0x0000` (R339). -/
theorem test_lcall_second :
    gives (start 0x0200 [0x7C, 0x00, 0x00] 0x00 0x00 0xFE 0x00 [] [] [])
      ⟨0x00, 0x00, 0x00, 0x00, 0x0000, [(0xFE, 0x02), (0xFF, 0x03)], []⟩ = true := by decide

/-- V-CTL-23: `ljmp 0x3FFF` (R340). -/
theorem test_ljmp_first :
    gives (start 0x0200 [0x7D, 0x3F, 0xFF] 0x00 0x00 0x00 0x00 [] [] [])
      ⟨0x00, 0x00, 0x00, 0x00, 0x3FFF, [], []⟩ = true := by decide

/-- V-CTL-24: `ljmp 0x0200` (R340). -/
theorem test_ljmp_second :
    gives (start 0x0200 [0x7D, 0x02, 0x00] 0x00 0x00 0x00 0x00 [] [] [])
      ⟨0x00, 0x00, 0x00, 0x00, 0x0200, [], []⟩ = true := by decide

/-- V-CTL-25: `ret` (R341). -/
theorem test_ret_first :
    gives (start 0x0200 [0x7F] 0x00 0x00 0x12 0x00 [(0x10, 0x12), (0x11, 0x34)] [] [])
      ⟨0x00, 0x00, 0x10, 0x00, 0x1234, [(0x10, 0x12), (0x11, 0x34)], []⟩ = true := by decide

/-- V-CTL-26: `ret` (R341). -/
theorem test_ret_second :
    gives (start 0x0200 [0x7F] 0x00 0x00 0x01 0x00 [(0x0, 0x03), (0xFF, 0x02)] [] [])
      ⟨0x00, 0x00, 0xFF, 0x00, 0x0203, [(0x0, 0x03), (0xFF, 0x02)], []⟩ = true := by decide

/-- V-MOV-1: `mov X, SP` (R362). -/
theorem test_movXSp_first :
    gives (start 0x0200 [0x4F] 0x00 0x00 0x7F 0x02 [] [] [])
      ⟨0x00, 0x7F, 0x7F, 0x02, 0x0201, [], []⟩ = true := by decide

/-- V-MOV-2: `mov A, 0x00` (R363). -/
theorem test_movAImm_first :
    gives (start 0x0200 [0x50, 0x00] 0x55 0x00 0x00 0x00 [] [] [])
      ⟨0x00, 0x00, 0x00, 0x02, 0x0202, [], []⟩ = true := by decide

/-- V-MOV-3: `mov A, 0x80` (R363). -/
theorem test_movAImm_second :
    gives (start 0x0200 [0x50, 0x80] 0x00 0x00 0x00 0x06 [] [] [])
      ⟨0x80, 0x00, 0x00, 0x04, 0x0202, [], []⟩ = true := by decide

/-- V-MOV-4: `mov A, [0x40]` (R364). -/
theorem test_movADir_first :
    gives (start 0x0200 [0x51, 0x40] 0x01 0x00 0x00 0x00 [(0x40, 0x00)] [] [])
      ⟨0x00, 0x00, 0x00, 0x02, 0x0202, [(0x40, 0x00)], []⟩ = true := by decide

/-- V-MOV-5: `mov A, [X+0x40]` (R365). -/
theorem test_movAIdx_first :
    gives (start 0x0200 [0x52, 0x40] 0x00 0xC1 0x00 0x00 [(0x1, 0x99)] [] [])
      ⟨0x99, 0xC1, 0x00, 0x00, 0x0202, [(0x1, 0x99)], []⟩ = true := by decide

/-- V-MOV-6: `mov [0x40], A` (R366). -/
theorem test_movDirA_first :
    gives (start 0x0200 [0x53, 0x40] 0x00 0x00 0x00 0x00 [] [] [])
      ⟨0x00, 0x00, 0x00, 0x00, 0x0202, [(0x40, 0x00)], []⟩ = true := by decide

/-- V-MOV-7: `mov [X+0x40], A` (R367). -/
theorem test_movIdxA_first :
    gives (start 0x0200 [0x54, 0x40] 0x77 0x01 0x00 0x00 [] [] [])
      ⟨0x77, 0x01, 0x00, 0x00, 0x0202, [(0x41, 0x77)], []⟩ = true := by decide

/-- V-MOV-8: `mov [0x40], 0x00` (R368). -/
theorem test_movDirImm_first :
    gives (start 0x0200 [0x55, 0x40, 0x00] 0x00 0x00 0x00 0x00 [] [] [])
      ⟨0x00, 0x00, 0x00, 0x00, 0x0203, [(0x40, 0x00)], []⟩ = true := by decide

/-- V-MOV-9: `mov [X+0x40], 0xAB` (R369). -/
theorem test_movIdxImm_first :
    gives (start 0x0200 [0x56, 0x40, 0xAB] 0x00 0xFF 0x00 0x00 [] [] [])
      ⟨0x00, 0xFF, 0x00, 0x00, 0x0203, [(0x3F, 0xAB)], []⟩ = true := by decide

/-- V-MOV-10: `mov X, 0x00` (R370). -/
theorem test_movXImm_first :
    gives (start 0x0200 [0x57, 0x00] 0x00 0x12 0x00 0x00 [] [] [])
      ⟨0x00, 0x00, 0x00, 0x00, 0x0202, [], []⟩ = true := by decide

/-- V-MOV-11: `mov X, [0x40]` (R371). -/
theorem test_movXDir_first :
    gives (start 0x0200 [0x58, 0x40] 0x00 0x00 0x00 0x00 [(0x40, 0x21)] [] [])
      ⟨0x00, 0x21, 0x00, 0x00, 0x0202, [(0x40, 0x21)], []⟩ = true := by decide

/-- V-MOV-12: `mov X, [X+0x08]` (R372). -/
theorem test_movXIdx_first :
    gives (start 0x0200 [0x59, 0x08] 0x00 0x10 0x00 0x00 [(0x18, 0x33)] [] [])
      ⟨0x00, 0x33, 0x00, 0x00, 0x0202, [(0x18, 0x33)], []⟩ = true := by decide

/-- V-MOV-13: `mov [0x40], X` (R373). -/
theorem test_movDirX_first :
    gives (start 0x0200 [0x5A, 0x40] 0x00 0x44 0x00 0x00 [] [] [])
      ⟨0x00, 0x44, 0x00, 0x00, 0x0202, [(0x40, 0x44)], []⟩ = true := by decide

/-- V-MOV-14: `mov A, X` (R374). -/
theorem test_movAX_first :
    gives (start 0x0200 [0x5B] 0x09 0x00 0x00 0x00 [] [] [])
      ⟨0x00, 0x00, 0x00, 0x02, 0x0201, [], []⟩ = true := by decide

/-- V-MOV-15: `mov X, A` (R375). -/
theorem test_movXA_first :
    gives (start 0x0200 [0x5C] 0x00 0x09 0x00 0x00 [] [] [])
      ⟨0x00, 0x00, 0x00, 0x00, 0x0201, [], []⟩ = true := by decide

/-- V-MOV-16: `mov A, reg[0x08]` (R376). -/
theorem test_movAReg_first :
    gives (start 0x0200 [0x5D, 0x08] 0x00 0x00 0x00 0x00 [] [(0x8, 0x5A)] [])
      ⟨0x5A, 0x00, 0x00, 0x00, 0x0202, [], []⟩ = true := by decide

/-- V-MOV-17: `mov A, reg[X+0x08]` (R377). -/
theorem test_movARegIdx_first :
    gives (start 0x0200 [0x5E, 0x08] 0x00 0x01 0x00 0x10 [] [(0x9, 0xFF), (0x109, 0x00)] [])
      ⟨0x00, 0x01, 0x00, 0x12, 0x0202, [], []⟩ = true := by decide

/-- V-MOV-18: `mov [0x40], [0x41]` (R378). -/
theorem test_movDirDir_first :
    gives (start 0x0200 [0x5F, 0x40, 0x41] 0x00 0x00 0x00 0x02 [(0x41, 0xC3)] [] [])
      ⟨0x00, 0x00, 0x00, 0x02, 0x0203, [(0x40, 0xC3), (0x41, 0xC3)], []⟩ = true := by decide

/-- V-MOV-19: `mov [0x40], [0x40]` (R378). -/
theorem test_movDirDir_second :
    gives (start 0x0200 [0x5F, 0x40, 0x40] 0x00 0x00 0x00 0x00 [(0x40, 0x11)] [] [])
      ⟨0x00, 0x00, 0x00, 0x00, 0x0203, [(0x40, 0x11)], []⟩ = true := by decide

/-- V-MOV-20: `mov reg[0x08], A` (R379). -/
theorem test_movRegA_first :
    gives (start 0x0200 [0x60, 0x08] 0xA5 0x00 0x00 0x00 [] [] [])
      ⟨0xA5, 0x00, 0x00, 0x00, 0x0202, [], [⟨.write, 0x8, 0xA5⟩]⟩ = true := by decide

/-- V-MOV-21: `mov reg[X+0x08], A` (R380). -/
theorem test_movRegIdxA_first :
    gives (start 0x0200 [0x61, 0x08] 0x5A 0xFF 0x00 0x00 [] [] [])
      ⟨0x5A, 0xFF, 0x00, 0x00, 0x0202, [], [⟨.write, 0x7, 0x5A⟩]⟩ = true := by decide

/-- V-MOV-22: `mov reg[0x08], 0x06` (R381). -/
theorem test_movRegImm_first :
    gives (start 0x0200 [0x62, 0x08, 0x06] 0x00 0x00 0x00 0x00 [] [] [])
      ⟨0x00, 0x00, 0x00, 0x00, 0x0203, [], [⟨.write, 0x8, 0x06⟩]⟩ = true := by decide

/-- V-MOV-23: `mov reg[X+0x08], 0x06` (R382). -/
theorem test_movRegIdxImm_first :
    gives (start 0x0200 [0x63, 0x08, 0x06] 0x00 0x02 0x00 0x10 [] [] [])
      ⟨0x00, 0x02, 0x00, 0x10, 0x0203, [], [⟨.write, 0x10A, 0x06⟩]⟩ = true := by decide

/-- V-MOV-24: `mov A, reg[0xF7]` (R376). -/
theorem test_movAReg_second :
    gives (start 0x0200 [0x5D, 0xF7] 0x00 0x00 0x00 0x14 [] [] [])
      ⟨0x14, 0x00, 0x00, 0x14, 0x0202, [], []⟩ = true := by decide

/-- V-MOV-26: `mov reg[0xF7], 0xFF` (R381). -/
theorem test_movRegImm_second :
    gives (start 0x0200 [0x62, 0xF7, 0xFF] 0x00 0x00 0x00 0x02 [] [] [])
      ⟨0x00, 0x00, 0x00, 0x02, 0x0203, [], [⟨.write, 0xF7, 0xFF⟩]⟩ = true := by decide

/-- V-MVI-1: `mvi A, [0x40]` (R392). -/
theorem test_mviRead_first :
    gives (start 0x0200 [0x3E, 0x40] 0x01 0x00 0x00 0x00 [(0x40, 0x50), (0x50, 0x00)] [] [])
      ⟨0x00, 0x00, 0x00, 0x02, 0x0202, [(0x40, 0x51), (0x50, 0x00)], []⟩ = true := by decide

/-- V-MVI-2: `mvi A, [0x40]` (R392). -/
theorem test_mviRead_second :
    gives (start 0x0200 [0x3E, 0x40] 0x00 0x00 0x00 0x00 [(0x40, 0xFF), (0xFF, 0x7E)] [] [])
      ⟨0x7E, 0x00, 0x00, 0x00, 0x0202, [(0x40, 0x00), (0xFF, 0x7E)], []⟩ = true := by decide

/-- V-MVI-4: `mvi [0x40], A` (R393). -/
theorem test_mviWrite_first :
    gives (start 0x0200 [0x3F, 0x40] 0x99 0x00 0x00 0x02 [(0x40, 0x50)] [] [])
      ⟨0x99, 0x00, 0x00, 0x02, 0x0202, [(0x40, 0x51), (0x50, 0x99)], []⟩ = true := by decide

/-- V-MVI-5: `mvi [0x40], A` (R393). -/
theorem test_mviWrite_second :
    gives (start 0x0200 [0x3F, 0x40] 0x99 0x00 0x00 0x00 [(0x40, 0xFF)] [] [])
      ⟨0x99, 0x00, 0x00, 0x00, 0x0202, [(0x40, 0x00), (0xFF, 0x99)], []⟩ = true := by decide

/-- V-MVI-7: `push A` (R396). -/
theorem test_pushA_first :
    gives (start 0x0200 [0x08] 0x12 0x00 0x10 0x00 [] [] [])
      ⟨0x12, 0x00, 0x11, 0x00, 0x0201, [(0x10, 0x12)], []⟩ = true := by decide

/-- V-MVI-8: `push A` (R396). -/
theorem test_pushA_second :
    gives (start 0x0200 [0x08] 0x12 0x00 0xFF 0x00 [] [] [])
      ⟨0x12, 0x00, 0x00, 0x00, 0x0201, [(0xFF, 0x12)], []⟩ = true := by decide

/-- V-MVI-9: `push X` (R397). -/
theorem test_pushX_first :
    gives (start 0x0200 [0x10] 0x00 0x34 0x00 0x00 [] [] [])
      ⟨0x00, 0x34, 0x01, 0x00, 0x0201, [(0x0, 0x34)], []⟩ = true := by decide

/-- V-MVI-10: `pop A` (R394). -/
theorem test_popA_first :
    gives (start 0x0200 [0x18] 0x01 0x00 0x11 0x00 [(0x10, 0x00)] [] [])
      ⟨0x00, 0x00, 0x10, 0x02, 0x0201, [(0x10, 0x00)], []⟩ = true := by decide

/-- V-MVI-11: `pop A` (R394). -/
theorem test_popA_second :
    gives (start 0x0200 [0x18] 0x00 0x00 0x00 0x02 [(0xFF, 0x80)] [] [])
      ⟨0x80, 0x00, 0xFF, 0x00, 0x0201, [(0xFF, 0x80)], []⟩ = true := by decide

/-- V-MVI-12: `pop X` (R395). -/
theorem test_popX_first :
    gives (start 0x0200 [0x20] 0x00 0x01 0x11 0x00 [(0x10, 0x00)] [] [])
      ⟨0x00, 0x00, 0x10, 0x00, 0x0201, [(0x10, 0x00)], []⟩ = true := by decide

/-- V-MVI-13: `swap A, X` (R401). -/
theorem test_swapAX_first :
    gives (start 0x0200 [0x4B] 0x00 0x55 0x00 0x00 [] [] [])
      ⟨0x55, 0x00, 0x00, 0x00, 0x0201, [], []⟩ = true := by decide

/-- V-MVI-14: `swap A, X` (R401). -/
theorem test_swapAX_second :
    gives (start 0x0200 [0x4B] 0x55 0x00 0x00 0x00 [] [] [])
      ⟨0x00, 0x55, 0x00, 0x02, 0x0201, [], []⟩ = true := by decide

/-- V-MVI-15: `swap A, [0x40]` (R402). -/
theorem test_swapADir_first :
    gives (start 0x0200 [0x4C, 0x40] 0x11 0x00 0x00 0x00 [(0x40, 0x00)] [] [])
      ⟨0x00, 0x00, 0x00, 0x02, 0x0202, [(0x40, 0x11)], []⟩ = true := by decide

/-- V-MVI-16: `swap X, [0x40]` (R403). -/
theorem test_swapXDir_first :
    gives (start 0x0200 [0x4D, 0x40] 0x00 0x11 0x00 0x00 [(0x40, 0x00)] [] [])
      ⟨0x00, 0x00, 0x00, 0x00, 0x0202, [(0x40, 0x11)], []⟩ = true := by decide

/-- V-MVI-17: `swap A, SP` (R404). -/
theorem test_swapASp_first :
    gives (start 0x0200 [0x4E] 0x80 0x00 0x00 0x00 [] [] [])
      ⟨0x00, 0x00, 0x80, 0x02, 0x0201, [], []⟩ = true := by decide

/-- V-MVI-18: `swap A, SP` (R404). -/
theorem test_swapASp_second :
    gives (start 0x0200 [0x4E] 0x00 0x00 0x80 0x02 [] [] [])
      ⟨0x80, 0x00, 0x00, 0x00, 0x0201, [], []⟩ = true := by decide

/-- V-MVI-19: `index 0x0300` (R361). -/
theorem test_index_first :
    gives (start 0x0200 [0xF0, 0xFE] 0x00 0x00 0x00 0x04 [] [] [(0x300, 0x00)])
      ⟨0x00, 0x00, 0x00, 0x06, 0x0202, [], []⟩ = true := by decide

/-- V-MVI-20: `index 0x0300` (R361). -/
theorem test_index_second :
    gives (start 0x0200 [0xF0, 0xFE] 0xFF 0x00 0x00 0x00 [] [] [(0x3FF, 0x5A)])
      ⟨0x5A, 0x00, 0x00, 0x00, 0x0202, [], []⟩ = true := by decide

/-- V-MVI-26: `romx` (R400). -/
theorem test_romx_first :
    gives (start 0x0200 [0x28] 0x02 0x00 0x00 0x00 [] [] [])
      ⟨0x28, 0x00, 0x00, 0x00, 0x0201, [], []⟩ = true := by decide

/-- V-MVI-27: `romx` (R400). -/
theorem test_romx_second :
    gives (start 0x0200 [0x28] 0x03 0x10 0x00 0x00 [] [] [(0x310, 0x00)])
      ⟨0x00, 0x10, 0x00, 0x02, 0x0201, [], []⟩ = true := by decide

/-- V-SYS-1: `nop` (R422). -/
theorem test_nop_first :
    gives (start 0x0200 [0x40] 0x12 0x34 0x56 0x17 [] [] [])
      ⟨0x12, 0x34, 0x56, 0x17, 0x0201, [], []⟩ = true := by decide

/-- V-SYS-2: `halt` (R420). -/
theorem test_halt_first :
    gives (start 0x0200 [0x30] 0x00 0x00 0x00 0x00 [] [] [])
      ⟨0x00, 0x00, 0x00, 0x00, 0x0201, [], [⟨.write, 0xFF, 0x01⟩]⟩ = true := by decide

/-- V-SYS-3: `halt` (R420). -/
theorem test_halt_second :
    gives (start 0x0200 [0x30] 0x00 0x00 0x00 0x00 [] [(0xFF, 0xFF)] [])
      ⟨0x00, 0x00, 0x00, 0x00, 0x0201, [], [⟨.write, 0xFF, 0x00⟩]⟩ = true := by decide

/-- V-SYS-5: `reti` (R423). -/
theorem test_reti_first :
    gives (start 0x0200 [0x7E] 0x00 0x00 0x13 0x00 [(0x10, 0x12), (0x11, 0x34), (0x12, 0x05)] [] [])
      ⟨0x00, 0x00, 0x10, 0x05, 0x1234, [(0x10, 0x12), (0x11, 0x34), (0x12, 0x05)], []⟩ = true := by decide

/-- V-SYS-6: `reti` (R423). -/
theorem test_reti_second :
    gives (start 0x0200 [0x7E] 0x00 0x00 0x01 0x04 [(0x0, 0x92), (0xFE, 0x3F), (0xFF, 0xFF)] [] [])
      ⟨0x00, 0x00, 0xFE, 0x92, 0x3FFF, [(0x0, 0x92), (0xFE, 0x3F), (0xFF, 0xFF)], []⟩ = true := by decide

/-- V-MVI-25: `index 0x0300` is refused (R361). -/
theorem test_index_refused :
    refusedWith (start 0x0200 [0xF0, 0xFE] 0x05 0x00 0x00 0x00 [] [] []) (.romUnreadable 0x0305) = true := by decide

/-- V-MVI-28: `romx` is refused (R400). -/
theorem test_romx_refused :
    refusedWith (start 0x0200 [0x28] 0x40 0x00 0x00 0x00 [] [] []) (.romUnreadable 0x4000) = true := by decide

/-- V-SYS-7: `ssc` is refused (R424). -/
theorem test_ssc_refused :
    refusedWith (start 0x0200 [0x00] 0x00 0x00 0x20 0x07 [] [] []) (.noSromCall) = true := by decide

/-! Interrupts, halting, fetch and reset. -/

/-- V-INT-1's machine: request 3 reported, its vector 0x0008. -/
def interrupted (sp f : Byte) (pc vector : Word) : State :=
  { start pc [0x40] 0x00 0x00 sp f [] [] [] with
    irqs := [some 3], profile := { Profile.base with vectors := [(3, vector)] } }

/-- V-INT-1 (60_exceptions.md R444, R446). -/
theorem test_interrupt_entry : gives (interrupted 0x10 0x05 0x0123 0x0008)
    ⟨0x00, 0x00, 0x13, 0x00, 0x0008, [(0x10, 0x01), (0x11, 0x23), (0x12, 0x05)], []⟩ = true := by decide

/-- V-INT-2: with GIE = 0 the `NOP` at PC executes. -/
theorem test_interrupt_masked : gives (interrupted 0x10 0x04 0x0123 0x0008)
    ⟨0x00, 0x00, 0x10, 0x04, 0x0124, [], []⟩ = true := by decide

/-- V-INT-5: the frame wraps in the stack page. -/
theorem test_interrupt_wraps : gives (interrupted 0xFE 0x01 0x0400 0x000C)
    ⟨0x00, 0x00, 0x01, 0x00, 0x000C, [(0x00, 0x01), (0xFE, 0x04), (0xFF, 0x00)], []⟩ = true := by decide

/-- V-INT-4: not taken while halted. -/
theorem test_interrupt_halted :
    step { interrupted 0x10 0x05 0x0123 0x0008 with halted := true } = .fault .halted := by rfl

/-- V-RST-3. -/
theorem test_fetch_unassigned : refusedWith State.reset (.romUnreadable 0x0000) = true := by decide

/-- V-RST-2. -/
theorem test_fetch_at_zero : gives (start 0x0000 [0x40] 0x00 0x00 0x00 0x02 [] [] [])
    ⟨0x00, 0x00, 0x00, 0x02, 0x0001, [], []⟩ = true := by decide

/-- V-RST-1: a watchdog reset leaves the watchdog on and the ROM as it was. -/
theorem test_reset_watchdog :
    State.hardReset .wdr { start 0x1234 [0x40] 0x11 0x22 0x33 0xFF [(1, 2)] [(3, 4)] [] with
      halted := true, wdt := true } =
    { start 0x1234 [0x40] 0x00 0x00 0x00 0x02 [] [] [] with pc := 0x0000, wdt := true, epoch := 1 } := by decide

/-- A RAM byte that is not implemented (20_memory.md R96). -/
theorem test_ram_unimplemented : refusedWith
    { start 0x0000 [0x51, 0x80] 0x00 0x00 0x00 0x02 [] [] [] with profile := { Profile.base with ramSize := 128 } }
    (.ramUnimplemented 0 0x80) = true := by decide

/-- `PUSH A` goes to the stack page, `MOV` to the current page, `MVI` to the page of DPW_DR (20_memory.md R88 to R90). -/
theorem test_pages_push : gives
    { start 0x0000 [0x08] 0x55 0x00 0x10 0x02 [] [(0xD0, 0x00)] [] with profile := twoPages }
    ⟨0x55, 0x00, 0x11, 0x02, 0x0001, [(0x110, 0x55)], []⟩ = true := by decide

theorem test_pages_mov : gives
    { start 0x0000 [0x53, 0x10] 0x55 0x00 0x10 0x02 [] [(0xD0, 0x01)] [] with profile := twoPages }
    ⟨0x55, 0x00, 0x10, 0x02, 0x0002, [(0x110, 0x55)], []⟩ = true := by decide

theorem test_pages_mvi : gives
    { start 0x0000 [0x3F, 0x10] 0x55 0x00 0x10 0x02 [(0x10, 0x80)] [(0xD4, 0x01)] [] with profile := twoPages }
    ⟨0x55, 0x00, 0x10, 0x02, 0x0002, [(0x10, 0x81), (0x180, 0x55)], []⟩ = true := by decide

/-- A read of a device's location is recorded and draws a free value (20_memory.md R91). -/
theorem test_device_read : (regRd { State.reset with profile := twoPages } 0x20).2.fresh = 1 := by decide

/-! Timing (30_encoding.md R137, 70_reset_and_hazards.md R502, 60_exceptions.md R451). -/

theorem test_cycles_plain : stepCycles (start 0x0000 [0x06, 0x40, 0x05] 0x00 0x00 0x00 0x02 [] [] []) = some 9 := by
  decide
theorem test_cycles_pageCrossing : stepCycles (start 0x00FE [0x06, 0x40, 0x05] 0x00 0x00 0x00 0x02 [] [] []) = some 10 := by
  decide
theorem test_cycles_takenJump : stepCycles (start 0x00FF [0x80, 0x40] 0x00 0x00 0x00 0x02 [] [] []) = some 5 := by decide
theorem test_cycles_interrupt : stepCycles (interrupted 0x10 0x05 0x0123 0x0008) = some 13 := by decide

/-! The assembler (30_encoding.md R160 to R192). -/

/-- A text becomes these bytes from address 0. -/
def assembles (lines : List String) (bs : List Byte) : Bool :=
  match Asm.assembleText lines with
  | .ok rom => decide (rom = Memory.cellsFrom 0 bs)
  | .error _ => false

/-- A text is not assembled, for this reason. -/
def assemblyFails (lines : List String) (e : Asm.AsmError) : Bool :=
  match Asm.assembleText lines with
  | .ok _ => false
  | .error q => decide (q = e)

/-- "All six lines of Table 17 load 0x4A" (R163). -/
theorem test_asm_constants : assembles
    ["mov A, 'J'", "mov A, 0x4A", "mov A, 4Ah", "mov A, $4A", "mov A, 74", "mov A,0112; Octal constant",
     "mov A, 0b01001010", "mov A, %01001010"]
    [0x50, 0x4A, 0x50, 0x4A, 0x50, 0x4A, 0x50, 0x4A, 0x50, 0x4A, 0x50, 0x4A, 0x50, 0x4A, 0x50, 0x4A] = true := by
  decide

/-- The worked encodings of R141 to R150, both spellings of `MVI` among them. -/
theorem test_asm_operands : assembles
    ["ADD A, 7", "mov A, REG[8]", "MOV X, [X+8]", "ADD [7], 5", "MOV reg[X+8], 6", "MOV [7], [8]", "MVI A, [8]",
     "mvi [[8]++], A"]
    [0x01, 0x07, 0x5D, 0x08, 0x59, 0x08, 0x06, 0x07, 0x05, 0x63, 0x08, 0x06, 0x5F, 0x07, 0x08, 0x3E, 0x08,
     0x3F, 0x08] = true := by decide

/-- The listing of R169: `0000 90 02 call SubFun`, `0002 8F FD jmp _main`, `0004 7F ret`, and re-usable labels (R161). -/
theorem test_asm_relative : assembles
    ["_main: call SubFun", "  jmp _main", "SubFun: jnz .More", ".More: ret", "Other:", ".More: lcall .More"]
    [0x90, 0x02, 0x8F, 0xFD, 0xB0, 0x01, 0x7F, 0x7C, 0x00, 0x07] = true := by decide

/-- The example of R184. -/
theorem test_asm_conditions : assembles
    ["Cond1: EQU 1", "Cond2: EQU 0", "IF (Cond1)", "ADD A, 33h", "IF (Cond2)", "ADD A, FFh", "ENDIF", "NOP", "ELSE",
     "MOV A, FFh", "ENDIF"]
    [0x01, 0x33, 0x40] = true := by decide

/-- The example of R187. -/
theorem test_asm_macro : Asm.assembleText
    ["MACRO MyMacro", "ADD A, 42h", "MOV X, 33h", "ENDM", "ORG 2400h", "MyMacro"] =
    .ok [(0x2400, 0x01), (0x2401, 0x42), (0x2402, 0x57), (0x2403, 0x33)] := by rfl

/-- The examples of R173, R176, R180 and R181. -/
theorem test_asm_data : assembles
    ["MyNum: EQU 77h", "DB 55h, 66h, MyNum", "DW 1111h, 2222h", "DWL 2211h, 4433h", "ASCIZ \"My\\\"S\\\\\"", "DSU \"A\""]
    [0x55, 0x66, 0x77, 0x11, 0x11, 0x22, 0x22, 0x11, 0x22, 0x33, 0x44, 0x4D, 0x79, 0x22, 0x53, 0x5C, 0x00,
     0x41, 0x00] = true := by decide

/-- Precedence (R165): `>` binds looser than `+`, `+` looser than `*`. -/
theorem test_asm_expressions : assembles ["mov A, >0x1FF+2*1", "mov A, <(0x1FF+2)*2", "mov A, ~0x0F & 0x3C ^ 1"]
    [0x50, 0x02, 0x50, 0x02, 0x50, 0x31] = true := by decide

/-- RAM variables and an area entered again (R171, R174, R175). -/
theorem test_asm_areas : assembles
    ["AREA bss (RAM)", "First: BLK 4", "Second: BLKW 2", "Third: BLK 1", "AREA text", "nop", "AREA bss", "Last: BLK 1",
     "AREA text", "mov [Third], Last"]
    [0x40, 0x55, 0x08, 0x09] = true := by decide

/-- An included file and a name exported from another one (R183, R185). -/
theorem test_asm_project : Asm.assemble 100
    ⟨[⟨"a.asm", ["include \"m.inc\"", "lcall Far", "mov A, Mask"]⟩, ⟨"b.asm", ["export Far", "Far: ret"]⟩],
     [⟨"m.inc", ["Mask: equ 1Fh"]⟩], []⟩ =
    .ok [(0, 0x7C), (1, 0x00), (2, 0x05), (3, 0x50), (4, 0x1F), (5, 0x7F)] := by rfl

/-- Program P1 of 96_test_vectors_derived.md: its source text becomes its ROM image. -/
theorem test_asm_program_sum : assembles
    ["Count: equ 8", "SumHi: equ 0x10", "SumLo: equ 0x11", "Idx: equ 0x12", "Port: equ 0x00", "    mov [SumHi], 0",
     "    mov [SumLo], 0", "    mov [Idx], 0", "loop:", "    mov A, [Idx]", "    index Table", "    add [SumLo], A",
     "    adc [SumHi], 0", "    inc [Idx]", "    cmp [Idx], Count", "    jnz loop", "    mov A, [SumHi]",
     "    mov reg[Port], A", "    mov A, [SumLo]", "    mov reg[Port], A", "    halt", "Table:",
     "    db 0xF0, 0x80, 0x7F, 0x01, 0xFF, 0x10, 0x00, 0xA5"]
    [0x55, 0x10, 0x00, 0x55, 0x11, 0x00, 0x55, 0x12, 0x00, 0x51, 0x12, 0xF0, 0x15, 0x04, 0x11, 0x0E, 0x10, 0x00, 0x76,
     0x12, 0x3C, 0x12, 0x08, 0xBF, 0xF1, 0x51, 0x10, 0x60, 0x00, 0x51, 0x11, 0x60, 0x00, 0x30, 0xF0, 0x80, 0x7F, 0x01,
     0xFF, 0x10, 0x00, 0xA5] = true := by decide

/-- A project is not assembled, for this reason. -/
def projectFails (prj : Asm.Project) (e : Asm.AsmError) : Bool :=
  match Asm.assemble 100 prj with
  | .ok _ => false
  | .error q => decide (q = e)

/-- "Only the Addition expression (+) may apply to" an external symbol (R165). -/
theorem test_asm_external : projectFails
    ⟨[⟨"a.asm", ["Far:: nop"]⟩, ⟨"b.asm", ["ljmp Far+1", "mov A, >Far"]⟩], [], []⟩ .externalOperand = true := by decide

/-- A label that two files export is global twice (R183); a file's own label comes before another file's global one. -/
theorem test_asm_exportTwice : projectFails
    ⟨[⟨"a.asm", ["export L", "L: nop"]⟩, ⟨"b.asm", ["export L", "L: nop"]⟩], [], []⟩ .duplicateName = true := by decide

theorem test_asm_ownLabelFirst : Asm.assemble 100
    ⟨[⟨"a.asm", ["mov A, L", "L: nop"]⟩, ⟨"b.asm", ["nop", "L:: mov A, L"]⟩], [], []⟩ =
    .ok [(0, 0x50), (1, 0x02), (2, 0x40), (3, 0x40), (4, 0x50), (5, 0x04)] := by rfl

/-- Each file begins in "text" (R172), whose attributes are those it is first declared with (R171). -/
theorem test_asm_textArea : Asm.assemble 100
    ⟨[⟨"a.asm", ["AREA text (ROM, REL)", "nop", "AREA bss", "V: BLK 1"]⟩, ⟨"b.asm", ["halt"]⟩], [], [("text", 16)]⟩ =
    .ok [(16, 0x40), (17, 0x30)] := by rfl

/-- Only ROM bytes are held to the 16-bit address space (R45, R174). -/
theorem test_asm_ramBeyond : assembles ["AREA bss", "BLK 70000", "V: BLK 1", "AREA text", "nop"] [0x40] = true := by decide
theorem test_asm_romBeyond : assemblyFails ["ORG 0xFFFF", "jmp ."] .addressTooLarge = true := by decide

theorem test_asm_areaMismatch : assemblyFails ["AREA a (ROM, ABS)", "AREA a (ROM, ABS, OVR)"] .areaMismatch = true := by
  decide

/-- `EQU` and `ORG` take a constant, a label or '.' (R182, R188). -/
theorem test_asm_equOperand : assemblyFails ["X: EQU 1+1"] .badOperands = true := by decide
theorem test_asm_orgOperand : assemblyFails ["ORG 1+1"] .badOperands = true := by decide

/-- A labelled `IF` in a skipped branch is counted (R184, R160). -/
theorem test_asm_labelledIf : assembles
    ["Zero: EQU 0", "IF Zero", "L: IF 1", "nop", "M: ENDIF", "nop", "N: ELSE", "halt", "ENDIF", "jmp N"]
    [0x30, 0x8F, 0xFE] = true := by decide

/-- The name of an included file is taken as it is quoted (R185). -/
theorem test_asm_includePath : Asm.assemble 100
    ⟨[⟨"a.asm", ["include \"..\\new\\m.inc\""]⟩], [⟨"..\\new\\m.inc", ["nop"]⟩], []⟩ = .ok [(0, 0x40)] := by rfl

/-- @digit is one digit, also inside a word (R187). -/
theorem test_asm_macroDigits : assembles
    ["MACRO Say", "ds \"@0@1\"", "ENDM", "MACRO Go", "@0_x: jmp @0_x", "ENDM", "MACRO Load", "mov A, @10", "ENDM",
     "Say a, 12", "Go L", "Load 0, 4"]
    [0x61, 0x31, 0x32, 0x8F, 0xFF, 0x50, 0x28] = true := by decide

/-- The map of a project: where each area was placed and the global labels (R193). -/
theorem test_asm_map : (Asm.assembleAll 100
    ⟨[⟨"a.asm", ["nop", "ORG 10h", "Far:: ret", "AREA bss", "V: BLK 4", "W: BLKW 1"]⟩], [], []⟩).map Asm.Assembly.map =
    .ok ⟨[⟨['t', 'e', 'x', 't'], false, true, false, [(0, 1), (16, 1)]⟩, ⟨['b', 's', 's'], true, true, false, [(0, 6)]⟩],
      [(['F', 'a', 'r'], 0x10)]⟩ := by rfl

/-- Both layouts of the listing (R192); the first two lines with code are those of the rule. -/
theorem test_asm_listings :
    ((Asm.assembleAll 100 (Asm.oneFile ["ORG 01AFh", "mov A,0112; Octal constant", "db 1, 2"])).map fun m =>
      (m.listing 0, m.cycleListing 0)) =
    .ok (["(0001) ORG 01AFh".toList, "(0002) mov A,0112; Octal constant".toList, "01AF: 50 4A  MOV A,74".toList,
        "(0003) db 1, 2".toList, "01B1: 01 02".toList],
      ["01AF ORG 01AFh".toList, "01AF 50 4A [04] mov A,0112; Octal constant".toList, "01B1 01 02 db 1, 2".toList]) := by rfl

theorem test_asm_branchOutOfRange : assemblyFails ["jmp 2049"] .branchOutOfRange = true := by decide
theorem test_asm_undefined : assemblyFails ["jmp Nowhere"] .undefinedName = true := by decide
theorem test_asm_duplicate : assemblyFails ["L: nop", "L: nop"] .duplicateName = true := by decide
theorem test_asm_noSuchForm : assemblyFails ["MOV SP, 8"] .badOperands = true := by decide

/-- "Mapping from syntax to opcode is one to one" (R168): each format's row is the opcode map's. -/
theorem test_asm_rows : Asm.syntaxTable.map Asm.SyntaxRow.row = opcodeMap ++ relMap := by rfl

/-- The listing lines of R163 and R192. -/
theorem test_asm_listing : Asm.listCode 0x01AF [0x50, 0x4A] = some "01AF: 50 4A  MOV A,74".toList := by decide
theorem test_asm_listing_source : Asm.listSource 14 "nop".toList = "(0014) nop".toList := by decide

/-! Program images (70_reset_and_hazards.md R496 to R498). -/

/-- The first and the last line of the source's ROM file. -/
theorem test_image_romFile : romFile "80 5B 00 00 7E 00 00 00\n3F 00 3D FF 3E CC FF\n".toList =
    some [0x80, 0x5B, 0x00, 0x00, 0x7E, 0x00, 0x00, 0x00, 0x3F, 0x00, 0x3D, 0xFF, 0x3E, 0xCC, 0xFF] := by decide

/-- Data records before the first type-04 record are loaded, the protection bits after it are not. -/
theorem test_image_hexFile : loadHexFile
    ":02000000805b23\n:020000040010ea\n:01000000ff00\n:020000040020da\n:00000001ff\n".toList =
    some [(0, 0x80), (1, 0x5B)] := by decide

theorem test_image_badChecksum : parseRecord ":020000040010eb".toList = none := by decide

/-- A run ends at `HALT` with its own write of `CPU_SCR` (R498). -/
theorem test_image_run : runProgram 10 Profile.base (Memory.cellsFrom 0 [0x50, 0x07, 0x60, 0x00, 0x30]) [] =
    some ⟨0x07, 0x00, 0x00, 0x00, 0x0005, [], [⟨.write, 0x00, 0x07⟩, ⟨.write, 0xFF, 0x01⟩]⟩ := by decide

/-- A run with a request of the interrupt controller (R498, 00_scope.md R4): `OR F,1`, then the handler's `HALT` at 8. -/
theorem test_image_run_interrupt :
    (runProgram 10 { Profile.base with vectors := [(3, 0x0008)] }
      (Memory.cellsFrom 0 [0x71, 0x01, 0x40, 0x40, 0x40, 0x40, 0x40, 0x40, 0x30]) [none, some 3]).map
      (fun r => (r.pc, r.sp, r.ram)) =
    some (0x0009, 0x03, [(0, 0x00), (1, 0x02), (2, 0x03)]) := by decide

/-- An end-of-file record ends the reading; a carriage return before a line's end is dropped. -/
theorem test_image_endOfFile : loadHexFile ":01000000ff00\r\n:00000001ff\r\n:01000000807f\r\n".toList = some [(0, 0xFF)] := by
  decide

theorem test_image_romFile_crlf : romFile "80 5B\r\n".toList = some [0x80, 0x5B] := by decide

/-- The layout of a one-block file (R497, Table 22). -/
theorem test_image_hexLayout :
    hexLayout (List.replicate 64 0x40) [⟨0x0000, .data, [0xFF]⟩] 0x10 =
      some [⟨0x0000, .data, List.replicate 64 0x40⟩, ⟨0x0000, .extendedLinear, [0x00, 0x10]⟩, ⟨0x0000, .data, [0xFF]⟩,
        ⟨0x0000, .extendedLinear, [0x00, 0x20]⟩, ⟨0x0000, .data, [0x00, 0x10]⟩, ⟨0x0000, .endOfFile, []⟩] := by decide

/-- "The Flash protection bits start at the 1 MB address" (R497). -/
theorem test_image_hexLayout_protection :
    hexLayout (List.replicate 64 0x40) [⟨0x0040, .data, [0xFF]⟩] 0x10 = none := by decide

/-- Lines after the end-of-file record are not read; a record of another type is refused. -/
theorem test_image_afterEnd : loadHexFile ":01000000ff00\n:00000001ff\nno record\n".toList = some [(0, 0xFF)] := by decide
theorem test_image_badType : parseRecord ":00000006fa".toList = none := by decide

/-! Witnesses: for every obligation with hypotheses, values that meet them. -/

/-- `NOP` at the reset state's PC. -/
def nopState : State := start 0x0000 [0x40] 0x00 0x00 0x00 0x02 [] [] []

/-- A state with a pointer byte and the byte it names. -/
def pointerState : State := start 0x0000 [0x3E, 0xFF] 0x00 0x00 0x00 0x02 [(0x00, 0xFF), (0xFF, 0x00)] [] []

theorem witness_EncodingRoundTrips : (Instr.jmp 0x800).wf = true := rfl

theorem witness_DecodingRoundTrips : decode [0xFF, 0xFF, 0x40] = .instr (.index 0xFFF) [0x40] := by decide

theorem witness_LengthIsByFirstByte :
    decode [0x00] = .instr .ssc [] ∧ decode [0x7F, 0x01] = .instr .ret [0x01] ∧
      decode [0x80, 0x00] = .instr (.jmp 0x000) [] ∧ decode [0x06, 0xFF, 0xFF] = .instr (.addDirImm 0xFF 0xFF) [] := by
  decide

theorem witness_StepRunsDecodedInstruction :
    Instr.nop.wf = true ∧ nopState.halted = false ∧ takenIrq nopState = none ∧
      BytesAt nopState nopState.pc (encode .nop) :=
  ⟨rfl, rfl, rfl, rfl, trivial⟩

theorem witness_HaltedCoreIsStuck : ({ State.reset with halted := true } : State).halted = true := rfl

theorem witness_InterruptIsTaken :
    let s := interrupted 0xFE 0x05 0x0123 0x0008
    let u : State := { s with profile := { Profile.base with ramSize := 255 } }
    (s.halted = false ∧ flagGIE s.f = true ∧ s.irqs = some 3 :: [] ∧ FrameOk s) ∧
      u.halted = false ∧ takenIrq u = some 3 ∧ firstBad u.profile (frameAccesses u) = some (0, 0xFF) :=
  ⟨⟨rfl, rfl, rfl, rfl, rfl, rfl⟩, rfl, rfl, rfl⟩

theorem witness_UnreadableFetchIsRefused :
    (State.reset.halted = false ∧ takenIrq State.reset = none ∧ RomUnreadable State.reset State.reset.pc) ∧
    RomUnreadable { State.reset with pc := 0x4000 } 0x4000 ∧
    (let s := start 0x3FFF [0x80] 0x00 0x00 0x00 0x02 [] [] [];
      s.halted = false ∧ takenIrq s = none ∧ romRd s s.pc = .ok 0x80 ∧ opcodeLength 0x80 ≠ 1 ∧
        RomUnreadable s (s.pc + 1)) ∧
    (let s := start 0x3FFE [0x7D, 0x00] 0x00 0x00 0x00 0x02 [] [] [];
      s.halted = false ∧ takenIrq s = none ∧ romRd s s.pc = .ok 0x7D ∧ opcodeLength 0x7D = 3 ∧
        ¬ RomUnreadable s (s.pc + 1) ∧ RomUnreadable s (s.pc + 2)) :=
  ⟨⟨rfl, rfl, .inr rfl⟩, .inl (by decide), ⟨rfl, rfl, rfl, by decide, .inl (by decide)⟩,
    ⟨rfl, rfl, rfl, by decide, fun h => h.elim (by decide) (by decide), .inl (by decide)⟩⟩

theorem witness_InstructionsNeverTrap :
    (let s : State := { State.reset with profile := { Profile.base with ramSize := 128 } };
      badRamAccess (.movADir 0x80) s = some (0, 0x80) ∧ badRamAccess (.movADir 0x7F) s = none ∧
        badRamAccess .popA s = some (0, 0xFF) ∧ badRamAccess .pushA { s with sp := 0x80 } = some (0, 0x80)) ∧
    (badRamAccess .ssc State.reset = none ∧ State.reset.profile.srom = false) ∧
    (badRamAccess .romx State.reset = none ∧ romAccess .romx State.reset = some 0x0000 ∧
      RomUnreadable State.reset 0x0000) ∧
    (badRamAccess .nop State.reset = none ∧ Instr.nop ≠ .ssc ∧ romAccess .nop State.reset = none) :=
  ⟨⟨rfl, rfl, rfl, rfl⟩, ⟨rfl, rfl⟩, ⟨rfl, rfl, .inr rfl⟩, rfl, by decide, rfl⟩

theorem witness_InterruptedProgramResumes :
    let s := interrupted 0xFE 0x05 0x0123 0x0008
    s.halted = false ∧ takenIrq s = some 3 ∧ (s.spare ||| s.f) &&& undefinedBits = 0x00 ∧ ∃ t, step s = .next t :=
  ⟨rfl, rfl, rfl, _, rfl⟩

theorem witness_HardwareResetRestarts : ResetKind.wdr = .wdr ∧ ResetKind.por ≠ .wdr ∧ ResetKind.xres ≠ .wdr := by decide

/-- The memories of the reset state are in canonical form. -/
theorem test_reset_memories :
    (Memory.wf none State.reset.ram && Memory.wf (some 0x00#8) State.reset.regs && Memory.wf none State.reset.rom) = true := by
  decide

theorem witness_StepKeepsWellFormed : Inv nopState ∧ ∃ t, step nopState = .next t :=
  ⟨⟨⟨rfl, by decide⟩, ⟨rfl, by decide⟩, ⟨rfl, by decide⟩, rfl, rfl⟩, _, rfl⟩

theorem witness_RomIsConstant : (∃ t, step nopState = .next t) ∧ nopState.profile.srom = false := ⟨⟨_, rfl⟩, rfl⟩

theorem witness_OnlyHaltHalts : ∃ t, exec .halt State.reset = .next t := ⟨_, rfl⟩

theorem witness_FlagWriters :
    (flagClass (.movXImm 0xFF) = .none ∧ ∃ t, exec (.movXImm 0xFF) State.reset = .next t) ∧
    (flagClass (.movAImm 0x00) = .z ∧ ∃ t, exec (.movAImm 0x00) State.reset = .next t) ∧
    (flagClass (.addAImm 0xFF) = .cz ∧ ∃ t, exec (.addAImm 0xFF) State.reset = .next t) :=
  ⟨⟨rfl, _, rfl⟩, ⟨rfl, _, rfl⟩, rfl, _, rfl⟩

theorem witness_RegisterWriters :
    (∃ t, exec .nop State.reset = .next t) ∧ Instr.nop ≠ .ssc ∧ writesA .nop = false ∧ writesX .nop = false ∧
      writesSp .nop = false := ⟨⟨_, rfl⟩, by decide⟩

theorem witness_RegisterSpaceWriters :
    (∃ t, exec (.movDirA 0xFF) State.reset = .next t) ∧ Instr.movDirA 0xFF ≠ .ssc ∧
      accessesRegs (.movDirA 0xFF) = false := ⟨⟨_, rfl⟩, by decide⟩

theorem witness_BaseProfileCompletes :
    State.reset.profile = Profile.base ∧ Instr.mviRead 0xFF ≠ .ssc ∧ readsRom (.mviRead 0xFF) = false := by decide

theorem witness_DataNeverReadsCode :
    Instr.movADir 0xFF ≠ .ssc ∧ readsRom (.movADir 0xFF) = false ∧ (∃ t, exec (.movADir 0xFF) State.reset = .next t) ∧
      ∃ r, exec (.movADir 0xFF) { State.reset with profile := { Profile.base with ramSize := 128 } } = .refused r :=
  ⟨by decide, rfl, ⟨_, rfl⟩, _, rfl⟩

/-- Both ends of a page are implemented: the hypothesis `CurOk s k` of `AdcResults`, `AddResults`, `SbbResults`,
`SubResults`, `CmpResults`, `IncDecResults`, `AndResults`, `OrResults`, `XorResults`, `TstCplResults`, `ShiftResults`,
`RotateResults`, `LoadAccumulatorResults`, `LoadIndexResults`, `StoreResults`, `SwapResults`. -/
theorem witness_CurOk : CurOk State.reset 0x00 ∧ CurOk State.reset 0xFF := ⟨rfl, rfl⟩

theorem witness_AdcResults : CurOk State.reset 0x00 ∧ CurOk State.reset 0xFF := witness_CurOk
theorem witness_AddResults : CurOk State.reset 0x00 ∧ CurOk State.reset 0xFF := witness_CurOk
theorem witness_SbbResults : CurOk State.reset 0x00 ∧ CurOk State.reset 0xFF := witness_CurOk
theorem witness_SubResults : CurOk State.reset 0x00 ∧ CurOk State.reset 0xFF := witness_CurOk
theorem witness_CmpResults : CurOk State.reset 0x00 ∧ CurOk State.reset 0xFF := witness_CurOk
theorem witness_IncDecResults : CurOk State.reset 0x00 ∧ CurOk State.reset 0xFF := witness_CurOk
theorem witness_AndResults : CurOk State.reset 0x00 ∧ CurOk State.reset 0xFF := witness_CurOk
theorem witness_OrResults : CurOk State.reset 0x00 ∧ CurOk State.reset 0xFF := witness_CurOk
theorem witness_XorResults : CurOk State.reset 0x00 ∧ CurOk State.reset 0xFF := witness_CurOk
theorem witness_TstCplResults : CurOk State.reset 0x00 ∧ CurOk State.reset 0xFF := witness_CurOk
theorem witness_ShiftResults : CurOk State.reset 0x00 ∧ CurOk State.reset 0xFF := witness_CurOk
theorem witness_RotateResults : CurOk State.reset 0x00 ∧ CurOk State.reset 0xFF := witness_CurOk
theorem witness_LoadAccumulatorResults : CurOk State.reset 0x00 ∧ CurOk State.reset 0xFF := witness_CurOk
theorem witness_LoadIndexResults : CurOk State.reset 0x00 ∧ CurOk State.reset 0xFF := witness_CurOk
theorem witness_SwapResults : CurOk State.reset 0x00 ∧ CurOk State.reset 0xFF := witness_CurOk
theorem witness_StoreResults : CurOk State.reset 0x00 ∧ CurOk State.reset 0xFF := witness_CurOk

theorem witness_RegisterReads :
    (State.reset.profile.fReadable = true ∧ (State.reset.spare ||| State.reset.f) &&& undefinedBits = 0x00) ∧
    ((0xFF : Byte) ≠ 0xF7 ∧ 0xFF ∉ State.reset.profile.devices) ∧
    ((0x20 : Byte) ≠ 0xF7 ∧ 0x20 ∈ twoPages.devices) ∧
    ({ Profile.base with fReadable := false } : Profile).fReadable = false := by decide

theorem witness_MviReadResult :
    (CurOk pointerState 0x00 ∧ ramOk pointerState.profile (mviReadPage pointerState) (curByte pointerState 0x00) = true) ∧
    CurOk pointerState 0xFF ∧ ramOk pointerState.profile (mviReadPage pointerState) (curByte pointerState 0xFF) = true :=
  ⟨⟨rfl, rfl⟩, rfl, rfl⟩

theorem witness_MviWriteResult :
    (CurOk pointerState 0x00 ∧ ramOk pointerState.profile (mviWritePage pointerState) (curByte pointerState 0x00) = true) ∧
    CurOk pointerState 0xFF ∧ ramOk pointerState.profile (mviWritePage pointerState) (curByte pointerState 0xFF) = true :=
  ⟨⟨rfl, rfl⟩, rfl, rfl⟩

theorem witness_StackMoveResults : StackOk State.reset State.reset.sp ∧ StackOk State.reset (State.reset.sp - 1) :=
  ⟨rfl, rfl⟩

theorem witness_TableReadResults :
    let s := start 0x3FFE [0xF0, 0x00] 0x00 0x00 0x00 0x02 [] [] [(0x0000, 0x55)]
    (romRd s (s.a ++ s.x) = .ok 0x55 ∧ romRd s (BitVec.ofInt 16 ((s.pc.toNat : Int) + 2 + (0xFFF : Disp).toInt + s.a.toNat)) = .ok 0x00) ∧
      (romRd s (BitVec.ofInt 16 ((s.pc.toNat : Int) + 2 + (0x000 : Disp).toInt + s.a.toNat)) = .error (.romUnreadable 0x4000) ∧
        romRd { s with x := 0x01 } (s.a ++ 0x01#8) = .error (.romUnreadable 0x0001)) :=
  ⟨⟨rfl, rfl⟩, rfl, rfl⟩

theorem witness_LongJumpReturnNopResults :
    StackOk State.reset (State.reset.sp - 1) ∧ StackOk State.reset (State.reset.sp - 2) := ⟨rfl, rfl⟩

theorem witness_CallResults : StackOk { State.reset with sp := 0xFF } 0xFF ∧ StackOk { State.reset with sp := 0xFF } (0xFF + 1) :=
  ⟨rfl, rfl⟩

theorem witness_ReturnFromCall :
    (∃ t, exec (.call 0x800) State.reset = .next t) ∧ ∃ t, exec (.lcall 0xFFFF) { State.reset with sp := 0xFF } = .next t :=
  ⟨⟨_, rfl⟩, _, rfl⟩

theorem witness_ReturnFromInterruptResult :
    StackOk State.reset (State.reset.sp - 1) ∧ StackOk State.reset (State.reset.sp - 2) ∧
      StackOk State.reset (State.reset.sp - 3) := ⟨rfl, rfl, rfl⟩

theorem witness_SupervisorCallResult :
    (FrameOk { State.reset with sp := 0xFE } ∧ State.reset.profile.srom = false) ∧
      FrameOk { State.reset with profile := sromProfile } ∧ sromProfile.srom = true :=
  ⟨⟨⟨rfl, rfl, rfl⟩, rfl⟩, ⟨rfl, rfl, rfl⟩, rfl⟩

theorem witness_RamPages :
    (Profile.base.ramPages ≤ 1) ∧
    (1 < twoPages.ramPages ∧ twoPages.pageRule = .pointer ∧
      ({ twoPages with pageRule := .device } : Profile).pageRule = .device) ∧
    (isFMirror twoPages 0xD0 = false ∧ isFMirror twoPages 0xD4 = false ∧ regLoc 0x02 0xD0 = twoPages.cppDr ∧
      regLoc 0x02 0xD3 = twoPages.dprDr ∧ isFMirror twoPages 0xD3 = false ∧ regLoc 0x02 0xD4 = twoPages.dpwDr) := by decide

theorem witness_IndexedForms :
    CurOk { State.reset with x := 0xFF } (0xFF + 0x01) ∧ CurOk { State.reset with x := 0x80 } (0x80 + 0x7F) := ⟨rfl, rfl⟩

theorem witness_HexRecordRoundTrips :
    (HexRecord.mk 0xFFFF .data (List.replicate 255 0xFF)).data.length ≤ 255 ∧ byteSum [0x01, 0xFE] ≠ 0x00 :=
  ⟨by simp, by decide⟩

theorem witness_LoadedMachineStartsWellFormed :
    (List.replicate 65536 (0x00 : Byte)).length ≤ 65536 ∧ ([] : List Byte).length ≤ 65536 ∧ Profile.base.wf = true ∧
      twoPages.wf = true ∧ cellsBelow 512 Profile.base.regPowerOn = true ∧ cellsBelow 512 [(511, 0xFF)] = true :=
  ⟨Nat.le_of_eq List.length_replicate, Nat.zero_le _, by decide, by decide, by decide, by decide⟩

theorem witness_AssembledJumpsReachTheirTarget :
    Asm.displacement 0x0900 1 0x0101 = .ok 0x800 ∧ Asm.displacement 0x0200 1 0x0A00 = .ok 0x7FF ∧
      Asm.displacement 0x0900 2 0x0102 = .ok 0x800 ∧
      Asm.displacement 0x0900 1 0x0100 = .error .branchOutOfRange ∧
      Asm.displacement 0x0200 1 0x0A01 = .error .branchOutOfRange ∧
      (start 0x0900 [] 0x00 0x00 0x00 0x02 [] [] []).pc = BitVec.ofNat 16 0x0900 ∧
      StackOk State.reset State.reset.sp ∧ StackOk State.reset (State.reset.sp + 1) :=
  ⟨rfl, rfl, rfl, rfl, rfl, rfl, rfl, rfl⟩

end Sys2Proof.Tests
end

/-! PROOFS. When an instruction completes: its RAM accesses are implemented. In the base profile all of them are. -/

namespace Sys2Proof.Machine

/-! Stack addresses, as the pops reach them and as `ramAccesses` lists them. -/

theorem byte_sub_one_sub_one (b : Byte) : b - 1 - 1 = b - 2 := by bv_omega

theorem byte_sub_one_sub_one_sub_one (b : Byte) : b - 1 - 1 - 1 = b - 3 := by bv_omega

/-! The instructions of the stack, from the implemented bytes they push to or pop from. -/

theorem callTo_completes {s : State} (ret target : Word) (h1 : StackOk s s.sp) (h2 : StackOk s (s.sp + 1)) :
    ∃ t, callTo ret target s = .next t :=
  ⟨_, callTo_eq_next.2 ⟨_, pushWord_eq_ok.2 ⟨h1, h2, rfl⟩, rfl⟩⟩

theorem execRet_completes {s : State} (h1 : StackOk s (s.sp - 1)) (h2 : StackOk s (s.sp - 2)) :
    ∃ t, execRet s = .next t := by
  rw [← byte_sub_one_sub_one] at h2
  exact ⟨_, execRet_eq_next.2 ⟨h1, h2, rfl⟩⟩

theorem execReti_completes {s : State} (h1 : StackOk s (s.sp - 1)) (h2 : StackOk s (s.sp - 2))
    (h3 : StackOk s (s.sp - 3)) : ∃ t, execReti s = .next t := by
  rw [← byte_sub_one_sub_one] at h2
  rw [← byte_sub_one_sub_one_sub_one] at h3
  exact ⟨_, execReti_eq_next.2 (returnFromInterrupt_eq_ok.2 ⟨h1, h2, h3, rfl⟩)⟩

/-- On every device, an instruction that starts no supervisory routine and reads no ROM byte can be stopped only by an
unimplemented RAM byte (20_memory.md R96, D16). The cases are the operand forms. -/
theorem exec_completes_of_ramAccesses_ok {i : Instr} {s : State} (hssc : i ≠ .ssc) (hrom : readsRom i = false)
    (hram : ∀ c ∈ ramAccesses i s, ramOk s.profile c.1 c.2 = true) : ∃ t, exec i s = .next t := by
  cases i with
  | ssc => exact absurd rfl hssc
  | romx | index => cases hrom
  -- Nothing but the core's registers, the immediate operand and F.
  | addAImm | adcAImm | subAImm | sbbAImm | andAImm | orAImm | xorAImm | cmpAImm | andF | orF | xorF
  | aslA | asrA | rlcA | rrcA | cplA | incA | decA | incX | decX
  | movAImm | movXImm | movAX | movXA | movXSp | swapAX | swapASp | addSp | nop | jmp | ljmp | jacc => exact ⟨_, rfl⟩
  | jz | jnz | jc | jnc => exact ⟨_, jumpIf_next _ _ s⟩
  -- The register space, which answers every access.
  | andReg | andRegIdx | orReg | orRegIdx | xorReg | xorRegIdx => exact ⟨_, regBin_next _ _ _ _ s⟩
  | tstReg | tstRegIdx => exact ⟨_, testReg_next _ _ _ s⟩
  | movAReg | movARegIdx => exact ⟨_, loadAReg_next _ s⟩
  | movRegA | movRegIdxA | movRegImm | movRegIdxImm => exact ⟨_, storeReg_next _ _ _ s⟩
  | halt => exact ⟨_, execHalt_next s⟩
  -- One RAM byte of the current page.
  | addADir | addAIdx | adcADir | adcAIdx | subADir | subAIdx | sbbADir | sbbAIdx
  | andADir | andAIdx | orADir | orAIdx | xorADir | xorAIdx => exact ⟨_, accRam_eq_next.2 ⟨hram _ (.head _), rfl⟩⟩
  | addDirA | addIdxA | addDirImm | addIdxImm | adcDirA | adcIdxA | adcDirImm | adcIdxImm
  | subDirA | subIdxA | subDirImm | subIdxImm | sbbDirA | sbbIdxA | sbbDirImm | sbbIdxImm
  | andDirA | andIdxA | andDirImm | andIdxImm | orDirA | orIdxA | orDirImm | orIdxImm
  | xorDirA | xorIdxA | xorDirImm | xorIdxImm => exact ⟨_, ramBin_eq_next.2 ⟨hram _ (.head _), rfl⟩⟩
  | aslDir | aslIdx | asrDir | asrIdx | rlcDir | rlcIdx | rrcDir | rrcIdx
  | incDir | incIdx | decDir | decIdx => exact ⟨_, unRam_eq_next.2 ⟨hram _ (.head _), rfl⟩⟩
  | cmpADir | cmpAIdx => exact ⟨_, testAccRam_eq_next.2 ⟨hram _ (.head _), rfl⟩⟩
  | cmpDirImm | cmpIdxImm | tstDir | tstIdx => exact ⟨_, testRam_eq_next.2 ⟨hram _ (.head _), rfl⟩⟩
  | movADir | movAIdx => exact ⟨_, loadARam_eq_next.2 ⟨hram _ (.head _), rfl⟩⟩
  | movXDir | movXIdx => exact ⟨_, loadXRam_eq_next.2 ⟨hram _ (.head _), rfl⟩⟩
  | movDirA | movIdxA | movDirImm | movIdxImm | movDirX => exact ⟨_, storeRam_eq_next.2 ⟨hram _ (.head _), rfl⟩⟩
  | swapADir => exact ⟨_, execSwapADir_eq_next.2 ⟨hram _ (.head _), rfl⟩⟩
  | swapXDir => exact ⟨_, execSwapXDir_eq_next.2 ⟨hram _ (.head _), rfl⟩⟩
  -- Two RAM bytes.
  | movDirDir =>
    exact ⟨_, execMovDirDir_eq_next.2 ⟨hram _ (.head _), hram _ (.tail _ (.head _)), rfl⟩⟩
  | mviRead => exact ⟨_, execMviRead_eq_next.2 ⟨hram _ (.head _), hram _ (.tail _ (.head _)), rfl⟩⟩
  | mviWrite => exact ⟨_, execMviWrite_eq_next.2 ⟨hram _ (.head _), hram _ (.tail _ (.head _)), rfl⟩⟩
  -- The stack.
  | pushA => exact ⟨_, execPushA_eq_next.2 ⟨hram _ (.head _), rfl⟩⟩
  | pushX => exact ⟨_, execPushX_eq_next.2 ⟨hram _ (.head _), rfl⟩⟩
  | popA => exact ⟨_, execPopA_eq_next.2 ⟨hram _ (.head _), rfl⟩⟩
  | popX => exact ⟨_, execPopX_eq_next.2 ⟨hram _ (.head _), rfl⟩⟩
  | call | lcall => exact callTo_completes _ _ (hram _ (.head _)) (hram _ (.tail _ (.head _)))
  | ret => exact execRet_completes (hram _ (.head _)) (hram _ (.tail _ (.head _)))
  | reti =>
    exact execReti_completes (hram _ (.head _)) (hram _ (.tail _ (.head _))) (hram _ (.tail _ (.tail _ (.head _))))

/-! One page of RAM. -/

theorem curPage_of_one_page {s : State} (h : s.profile.ramPages ≤ 1) : curPage s = 0 := if_pos h

theorem stackPage_of_one_page {s : State} (h : s.profile.ramPages ≤ 1) : stackPage s = 0 := if_pos h

theorem mviReadPage_of_one_page {s : State} (h : s.profile.ramPages ≤ 1) : mviReadPage s = 0 := if_pos h

theorem mviWritePage_of_one_page {s : State} (h : s.profile.ramPages ≤ 1) : mviWritePage s = 0 := if_pos h

/-- With one page every RAM access is to page 0 (20_memory.md R88 to R90): a look at each row of `ramAccesses`. -/
theorem ramAccesses_page_of_one_page (i : Instr) {s : State} (h : s.profile.ramPages ≤ 1) :
    ∀ c ∈ ramAccesses i s, c.1 = 0 := by
  cases i <;>
    simp [ramAccesses, frameAccesses, curPage_of_one_page h, stackPage_of_one_page h, mviReadPage_of_one_page h,
      mviWritePage_of_one_page h]

/-- The base profile implements all 256 bytes of page 0 (00_scope.md R5). -/
theorem ramOk_base (addr : Byte) : ramOk Profile.base 0 addr = true := by
  simpa [ramOk, Profile.base] using addr.isLt

theorem ramAccesses_ok_of_base (i : Instr) {s : State} (h : s.profile = Profile.base) :
    ∀ c ∈ ramAccesses i s, ramOk s.profile c.1 c.2 = true := by
  intro c hc
  have hpages : s.profile.ramPages ≤ 1 := by rw [h]; exact Nat.le_refl 1
  rw [h, ramAccesses_page_of_one_page i hpages c hc]
  exact ramOk_base c.2

/-- Settles O21: in the base profile no RAM access is to an unimplemented byte. -/
theorem baseProfileCompletes : Obligations.BaseProfileCompletes := fun i _ hprofile hssc hrom =>
  exec_completes_of_ramAccesses_ok hssc hrom (ramAccesses_ok_of_base i hprofile)

end Sys2Proof.Machine

/-! PROOFS. What an instruction leaves unchanged: F, A, X, SP and the register space. -/

namespace Sys2Proof.Machine

/-- A change of F from `f` to `f'` is within a flag class: every bit outside the class is as it was (10_state.md R51). -/
def FlagClass.Allows : FlagClass → Byte → Byte → Prop
  | .cz, f, f' => f' &&& 0xF9#8 = f &&& 0xF9#8
  | .z, f, f' => f' &&& 0xFD#8 = f &&& 0xFD#8
  | .none, f, f' => f' = f
  | .whole, _, _ => True

/-- From `s` to `t`, of A, X, SP, the register space and F, nothing changed but what `w` lists and what the flag class `c`
allows. By default a field is shown by evaluation, so a proof names the touched fields alone. -/
structure TouchesOnly (w : Touches) (c : FlagClass) (s t : State) : Prop where
  a : w.a = false → t.a = s.a := by exact fun _ => rfl
  x : w.x = false → t.x = s.x := by exact fun _ => rfl
  sp : w.sp = false → t.sp = s.sp := by exact fun _ => rfl
  bus : w.regs = false → t.bus = s.bus := by exact fun _ => rfl
  regs : w.regs = false → t.regs = s.regs := by exact fun _ => rfl
  flags : c.Allows s.f t.f

section
variable {s t : State} {c : FlagClass} {ea v : Byte} {n : Word}

/-! The operand forms whose operation decides the flag class. -/

theorem accResult_touchesOnly {op : BinOp} (hop : ∀ f a b, c.Allows f (op f a b).2) :
    TouchesOnly { a := true } c s (accResult op v s) :=
  { a := nofun, flags := hop _ _ _ }

theorem accImm_touchesOnly {op : BinOp} (h : accImm op v s = .next t) (hop : ∀ f a b, c.Allows f (op f a b).2) :
    TouchesOnly { a := true } c s t := by
  obtain rfl := Host.Outcome.next.inj h
  exact accResult_touchesOnly hop

theorem accRam_touchesOnly {op : BinOp} (h : accRam op ea s = .next t) (hop : ∀ f a b, c.Allows f (op f a b).2) :
    TouchesOnly { a := true } c s t := by
  obtain ⟨-, rfl⟩ := accRam_eq_next.1 h
  exact accResult_touchesOnly hop

theorem ramBin_touchesOnly {op : BinOp} (h : ramBin op ea v n s = .next t) (hop : ∀ f a b, c.Allows f (op f a b).2) :
    TouchesOnly {} c s t := by
  obtain ⟨-, rfl⟩ := ramBin_eq_next.1 h
  exact { flags := hop _ _ _ }

theorem regBin_touchesOnly {op : BinOp} (h : regBin op ea v n s = .next t) (hop : ∀ f a b, c.Allows f (op f a b).2) :
    TouchesOnly { regs := true } c s t := by
  obtain rfl := Host.Outcome.next.inj ((regBin_next op ea v n s).symm.trans h)
  exact { bus := nofun, regs := nofun, flags := hop _ _ _ }

theorem testAccImm_touchesOnly {op : TestOp} (h : testAccImm op v s = .next t) (hop : ∀ f a b, c.Allows f (op f a b)) :
    TouchesOnly {} c s t := by
  obtain rfl := Host.Outcome.next.inj h
  exact { flags := hop _ _ _ }

theorem testAccRam_touchesOnly {op : TestOp} (h : testAccRam op ea s = .next t) (hop : ∀ f a b, c.Allows f (op f a b)) :
    TouchesOnly {} c s t := by
  obtain ⟨-, rfl⟩ := testAccRam_eq_next.1 h
  exact { flags := hop _ _ _ }

theorem testRam_touchesOnly {op : TestOp} (h : testRam op ea v s = .next t) (hop : ∀ f a b, c.Allows f (op f a b)) :
    TouchesOnly {} c s t := by
  obtain ⟨-, rfl⟩ := testRam_eq_next.1 h
  exact { flags := hop _ _ _ }

theorem testReg_touchesOnly {op : TestOp} (h : testReg op ea v s = .next t) (hop : ∀ f a b, c.Allows f (op f a b)) :
    TouchesOnly { regs := true } c s t := by
  obtain rfl := Host.Outcome.next.inj ((testReg_next op ea v s).symm.trans h)
  exact { bus := nofun, regs := nofun, flags := hop _ _ _ }

theorem unA_touchesOnly {op : UnOp} (h : unA op s = .next t) (hop : ∀ f a, c.Allows f (op f a).2) :
    TouchesOnly { a := true } c s t := by
  obtain rfl := Host.Outcome.next.inj h
  exact { a := nofun, flags := hop _ _ }

theorem unX_touchesOnly {op : UnOp} (h : unX op s = .next t) (hop : ∀ f a, c.Allows f (op f a).2) :
    TouchesOnly { x := true } c s t := by
  obtain rfl := Host.Outcome.next.inj h
  exact { x := nofun, flags := hop _ _ }

theorem unRam_touchesOnly {op : UnOp} (h : unRam op ea s = .next t) (hop : ∀ f a, c.Allows f (op f a).2) :
    TouchesOnly {} c s t := by
  obtain ⟨-, rfl⟩ := unRam_eq_next.1 h
  exact { flags := hop _ _ }

theorem flagsImm_touchesOnly {op : Byte → Byte → Byte} (h : flagsImm op v s = .next t) :
    TouchesOnly {} .whole s t := by
  obtain rfl := Host.Outcome.next.inj h
  exact { flags := trivial }

/-! Loads, stores and transfers of control. -/

theorem loadA_touchesOnly : TouchesOnly { a := true } .z s (loadA v n s) :=
  { a := nofun, flags := setFlagZ_others _ _ }

theorem loadARam_touchesOnly (h : loadARam ea s = .next t) : TouchesOnly { a := true } .z s t := by
  obtain ⟨-, rfl⟩ := loadARam_eq_next.1 h
  exact loadA_touchesOnly

theorem loadARom_touchesOnly {addr : Word} (h : loadARom addr n s = .next t) :
    TouchesOnly { a := true, rom := true } .z s t := by
  obtain ⟨v, -, rfl⟩ := loadARom_eq_next.1 h
  exact { a := nofun, flags := setFlagZ_others _ _ }

theorem loadAReg_touchesOnly (h : loadAReg ea s = .next t) : TouchesOnly { a := true, regs := true } .z s t := by
  obtain rfl := Host.Outcome.next.inj ((loadAReg_next ea s).symm.trans h)
  exact { a := nofun, bus := nofun, regs := nofun, flags := setFlagZ_others _ _ }

theorem loadXRam_touchesOnly (h : loadXRam ea s = .next t) : TouchesOnly { x := true } .none s t := by
  obtain ⟨-, rfl⟩ := loadXRam_eq_next.1 h
  exact { x := nofun, flags := rfl }

theorem storeRam_touchesOnly (h : storeRam ea v n s = .next t) : TouchesOnly {} .none s t := by
  obtain ⟨-, rfl⟩ := storeRam_eq_next.1 h
  exact { flags := rfl }

theorem storeReg_touchesOnly (h : storeReg ea v n s = .next t) : TouchesOnly { regs := true } .none s t := by
  obtain rfl := Host.Outcome.next.inj ((storeReg_next ea v n s).symm.trans h)
  exact { bus := nofun, regs := nofun, flags := rfl }

theorem setPc_touchesOnly (pc : Word) : TouchesOnly {} .none s (s.setPc pc) := { flags := rfl }

theorem jumpIf_touchesOnly {taken : Bool} {k : Disp} (h : jumpIf taken k s = .next t) : TouchesOnly {} .none s t := by
  obtain rfl := Host.Outcome.next.inj ((jumpIf_next taken k s).symm.trans h)
  exact setPc_touchesOnly _

theorem callTo_touchesOnly {ret target : Word} (h : callTo ret target s = .next t) :
    TouchesOnly { sp := true } .none s t := by
  obtain ⟨_, hpush, rfl⟩ := callTo_eq_next.1 h
  obtain ⟨-, -, rfl⟩ := pushWord_eq_ok.1 hpush
  exact { sp := nofun, flags := rfl }

end

/-- The list of what an instruction touches and its flag class are complete (10_state.md R31 to R33, R47, R51). The cases
are the operand forms; `SSC` is left out, since its routine may write anything. -/
theorem exec_touchesOnly {i : Instr} {s t : State} (hssc : i ≠ .ssc) (h : exec i s = .next t) :
    TouchesOnly (touches i) (flagClass i) s t := by
  cases i with
  | ssc => exact absurd rfl hssc
  -- Destination A.
  | addAImm | adcAImm | subAImm | sbbAImm => exact accImm_touchesOnly h fun _ _ _ => setFlagsCZ_others _ _ _
  | andAImm | orAImm | xorAImm => exact accImm_touchesOnly h fun _ _ _ => setFlagZ_others _ _
  | addADir | addAIdx | adcADir | adcAIdx | subADir | subAIdx | sbbADir | sbbAIdx =>
    exact accRam_touchesOnly h fun _ _ _ => setFlagsCZ_others _ _ _
  | andADir | andAIdx | orADir | orAIdx | xorADir | xorAIdx =>
    exact accRam_touchesOnly h fun _ _ _ => setFlagZ_others _ _
  -- Destination in RAM.
  | addDirA | addIdxA | addDirImm | addIdxImm | adcDirA | adcIdxA | adcDirImm | adcIdxImm
  | subDirA | subIdxA | subDirImm | subIdxImm | sbbDirA | sbbIdxA | sbbDirImm | sbbIdxImm =>
    exact ramBin_touchesOnly h fun _ _ _ => setFlagsCZ_others _ _ _
  | andDirA | andIdxA | andDirImm | andIdxImm | orDirA | orIdxA | orDirImm | orIdxImm
  | xorDirA | xorIdxA | xorDirImm | xorIdxImm => exact ramBin_touchesOnly h fun _ _ _ => setFlagZ_others _ _
  -- Destination in the register space.
  | andReg | andRegIdx | orReg | orRegIdx | xorReg | xorRegIdx =>
    exact regBin_touchesOnly h fun _ _ _ => setFlagZ_others _ _
  -- No destination but F.
  | cmpAImm => exact testAccImm_touchesOnly h fun _ _ _ => setFlagsCZ_others _ _ _
  | cmpADir | cmpAIdx => exact testAccRam_touchesOnly h fun _ _ _ => setFlagsCZ_others _ _ _
  | cmpDirImm | cmpIdxImm => exact testRam_touchesOnly h fun _ _ _ => setFlagsCZ_others _ _ _
  | tstDir | tstIdx => exact testRam_touchesOnly h fun _ _ _ => setFlagZ_others _ _
  | tstReg | tstRegIdx => exact testReg_touchesOnly h fun _ _ _ => setFlagZ_others _ _
  | andF | orF | xorF => exact flagsImm_touchesOnly h
  -- One operand.
  | aslA | asrA | rlcA | rrcA | incA | decA => exact unA_touchesOnly h fun _ _ => setFlagsCZ_others _ _ _
  | cplA => exact unA_touchesOnly h fun _ _ => setFlagZ_others _ _
  | incX | decX => exact unX_touchesOnly h fun _ _ => setFlagsCZ_others _ _ _
  | aslDir | aslIdx | asrDir | asrIdx | rlcDir | rlcIdx | rrcDir | rrcIdx
  | incDir | incIdx | decDir | decIdx => exact unRam_touchesOnly h fun _ _ => setFlagsCZ_others _ _ _
  -- Loads and stores.
  | movAImm | movAX =>
    obtain rfl := Host.Outcome.next.inj h
    exact loadA_touchesOnly
  | movADir | movAIdx => exact loadARam_touchesOnly h
  | movAReg | movARegIdx => exact loadAReg_touchesOnly h
  | romx | index => exact loadARom_touchesOnly h
  | movXImm | movXA | movXSp =>
    obtain rfl := Host.Outcome.next.inj h
    exact { x := nofun, flags := rfl }
  | movXDir | movXIdx => exact loadXRam_touchesOnly h
  | movDirA | movIdxA | movDirImm | movIdxImm | movDirX => exact storeRam_touchesOnly h
  | movRegA | movRegIdxA | movRegImm | movRegIdxImm => exact storeReg_touchesOnly h
  | movDirDir =>
    obtain ⟨-, -, rfl⟩ := execMovDirDir_eq_next.1 h
    exact { flags := rfl }
  | mviRead =>
    obtain ⟨-, -, rfl⟩ := execMviRead_eq_next.1 h
    exact { a := nofun, flags := setFlagZ_others _ _ }
  | mviWrite =>
    obtain ⟨-, -, rfl⟩ := execMviWrite_eq_next.1 h
    exact { flags := rfl }
  -- Exchanges.
  | swapAX =>
    obtain rfl := Host.Outcome.next.inj h
    exact { a := nofun, x := nofun, flags := setFlagZ_others _ _ }
  | swapASp =>
    obtain rfl := Host.Outcome.next.inj h
    exact { a := nofun, sp := nofun, flags := setFlagZ_others _ _ }
  | swapADir =>
    obtain ⟨-, rfl⟩ := execSwapADir_eq_next.1 h
    exact { a := nofun, flags := setFlagZ_others _ _ }
  | swapXDir =>
    obtain ⟨-, rfl⟩ := execSwapXDir_eq_next.1 h
    exact { x := nofun, flags := rfl }
  -- The stack.
  | addSp =>
    obtain rfl := Host.Outcome.next.inj h
    exact { sp := nofun, flags := rfl }
  | pushA =>
    obtain ⟨-, rfl⟩ := execPushA_eq_next.1 h
    exact { sp := nofun, flags := rfl }
  | pushX =>
    obtain ⟨-, rfl⟩ := execPushX_eq_next.1 h
    exact { sp := nofun, flags := rfl }
  | popA =>
    obtain ⟨-, rfl⟩ := execPopA_eq_next.1 h
    exact { a := nofun, sp := nofun, flags := setFlagZ_others _ _ }
  | popX =>
    obtain ⟨-, rfl⟩ := execPopX_eq_next.1 h
    exact { x := nofun, sp := nofun, flags := rfl }
  -- Transfers of control.
  | nop | jmp | ljmp | jacc =>
    obtain rfl := Host.Outcome.next.inj h
    exact setPc_touchesOnly _
  | jz | jnz | jc | jnc => exact jumpIf_touchesOnly h
  | call | lcall => exact callTo_touchesOnly h
  | ret =>
    obtain ⟨-, -, rfl⟩ := execRet_eq_next.1 h
    exact { sp := nofun, flags := rfl }
  | reti =>
    obtain ⟨-, -, -, rfl⟩ := returnFromInterrupt_eq_ok.1 (execReti_eq_next.1 h)
    exact { sp := nofun, flags := trivial }
  | halt =>
    obtain rfl := Host.Outcome.next.inj ((execHalt_next s).symm.trans h)
    exact { bus := nofun, regs := nofun, flags := rfl }

/-- F changes within the flag class of the instruction; the class of `SSC` is the whole byte. -/
theorem exec_flags_allowed {i : Instr} {s t : State} {c : FlagClass} (h : exec i s = .next t)
    (hclass : flagClass i = c) : c.Allows s.f t.f := by
  subst hclass
  by_cases hssc : i = .ssc
  · subst hssc
    trivial
  · exact (exec_touchesOnly hssc h).flags

/-- Settles O17: each clause is what `FlagClass.Allows` says of one class. -/
theorem flagWriters : Obligations.FlagWriters := fun _ _ _ h =>
  ⟨exec_flags_allowed h, exec_flags_allowed h, exec_flags_allowed h⟩

/-- Settles O18. -/
theorem registerWriters : Obligations.RegisterWriters := by
  intro i s t h hssc
  have only := exec_touchesOnly hssc h
  exact ⟨only.a, only.x, only.sp⟩

/-- Settles O19: the stored bytes are those of an unchanged list. -/
theorem registerSpaceWriters : Obligations.RegisterSpaceWriters := by
  intro i s t h hssc hregs
  have only := exec_touchesOnly hssc h
  exact ⟨only.bus hregs, fun loc => congrArg (Memory.readD 0x00#8 · loc) (only.regs hregs)⟩

end Sys2Proof.Machine

/-! PROOFS. The reset state: its register values and its invariant. -/

namespace Sys2Proof.Machine

/-- No location is listed at reset, so each stores the background 0x00. -/
theorem regByte_reset (loc : Nat) : regByte State.reset loc = 0x00#8 := rfl

/-- Settles O11. -/
theorem resetValues : Obligations.ResetValues :=
  ⟨rfl, rfl, rfl, rfl, rfl, rfl, rfl, rfl, rfl, rfl, rfl, rfl, rfl, rfl, regByte_reset⟩

/-- An empty memory is in canonical form, whatever its background and whatever is asked of its keys. -/
theorem empty_memory_wf (d : Option Byte) (keyOk : Host.Cell → Prop) :
    Memory.wf d [] = true ∧ ∀ c ∈ ([] : List Host.Cell), keyOk c := ⟨rfl, nofun⟩

/-- Settles O13: the three memories are empty, and no undefined bit of F is 1. -/
theorem resetIsWellFormed : Obligations.ResetIsWellFormed :=
  ⟨empty_memory_wf _ _, empty_memory_wf _ _, empty_memory_wf _ _, rfl, rfl⟩

end Sys2Proof.Machine

/-! PROOFS. What every step keeps: the canonical form of the memories, the record of undefined bits of F, the ROM and the
parameters. -/

namespace Sys2Proof.Machine

/-! Memories. -/

/-- `m'` is `m` after writes, each to an address that `ok` admits. -/
def WrittenWithin (d : Option Byte) (ok : Nat → Prop) (m m' : List Host.Cell) : Prop :=
  ∃ ws : List Host.Cell, (∀ c ∈ ws, ok c.1) ∧ m' = Memory.putAll d m ws

theorem Memory.putAll_append (d : Option Byte) (m vs ws : List Host.Cell) :
    Memory.putAll d m (vs ++ ws) = Memory.putAll d (Memory.putAll d m vs) ws := by
  induction vs generalizing m with
  | nil => rfl
  | cons v vs ih => exact ih _

section
variable {d : Option Byte} {ok : Nat → Prop} {m m' m'' : List Host.Cell}

theorem WrittenWithin.refl : WrittenWithin d ok m m := ⟨[], nofun, rfl⟩

theorem WrittenWithin.put {a : Nat} {v : Byte} (h : ok a) : WrittenWithin d ok m (Memory.put d m a v) :=
  ⟨[(a, v)], by simpa using h, rfl⟩

theorem WrittenWithin.trans (h : WrittenWithin d ok m m') (h' : WrittenWithin d ok m' m'') :
    WrittenWithin d ok m m'' := by
  obtain ⟨vs, hvs, rfl⟩ := h
  obtain ⟨ws, hws, rfl⟩ := h'
  refine ⟨vs ++ ws, fun c hc => ?_, (Memory.putAll_append d m vs ws).symm⟩
  exact (List.mem_append.1 hc).elim (hvs c) (hws c)

/-- No write is admitted, so none was made. -/
theorem WrittenWithin.eq_of_none_ok (h : WrittenWithin d ok m m') (hok : ∀ a, ¬ ok a) : m' = m := by
  obtain ⟨ws, hws, rfl⟩ := h
  cases ws with
  | nil => rfl
  | cons c ws => exact absurd (hws c List.mem_cons_self) (hok _)

/-- Writes keep a memory in canonical form and its keys within the addresses admitted. -/
theorem WrittenWithin.keeps_wf {keyOk : Nat → Prop} (h : WrittenWithin d ok m m') (hok : ∀ a, ok a → keyOk a)
    (hm : Memory.wf d m = true ∧ ∀ c ∈ m, keyOk c.1) : Memory.wf d m' = true ∧ ∀ c ∈ m', keyOk c.1 := by
  obtain ⟨hwf, hkeys⟩ := hm
  obtain ⟨ws, hws, rfl⟩ := h
  refine ⟨Memory.wf_putAll d ws m hwf, fun c hc => ?_⟩
  exact (Memory.mem_putAll hc).elim (fun hc => hok _ (hws c hc)) (hkeys c)

end

/-! The addresses written. -/

/-- The key of an implemented RAM byte is a key of implemented RAM (20_memory.md R96). -/
theorem ramKeyOk_of_ramOk {p : Profile} {page : Nat} {addr : Byte} (h : ramOk p page addr = true) :
    ramKeyOk p (page * 256 + addr.toNat) = true := by
  have haddr : addr.toNat < 256 := addr.isLt
  have hpage : (page * 256 + addr.toNat) / 256 = page := by omega
  rw [ramKeyOk, hpage]
  exact h

/-- Of a routine's RAM writes only those to implemented bytes are made (notes/assumptions/40.md). -/
theorem sromRamWrites_ok {p : Profile} {ws : List Host.Cell} :
    ∀ c ∈ sromRamWrites p ws, ramKeyOk p c.1 = true := by
  intro c hc
  have hok := ramKeyOk_of_ramOk (List.mem_filter.1 hc).2
  have hkey : c.1 / 256 * 256 + (BitVec.ofNat 8 c.1).toNat = c.1 := by
    rw [BitVec.toNat_ofNat]
    omega
  rwa [hkey] at hok

theorem sromRegWrites_ok {ws : List Host.Cell} : ∀ c ∈ sromRegWrites ws, c.1 < 512 := by
  intro c hc
  simpa using (List.mem_filter.1 hc).2

theorem sromRomWrites_ok {p : Profile} {ws : List Host.Cell} : ∀ c ∈ sromRomWrites p ws, c.1 < 65536 := by
  intro c hc
  have h := (List.mem_filter.1 hc).2
  simp only [Bool.and_eq_true, decide_eq_true_eq] at h
  exact h.2

/-! What a step may do to the parts of the state that `Inv` and the constancy of the ROM speak of. -/

/-- From `s` to `t`: the parameters, the watchdog enable and the reset count are the same; RAM was written at implemented
bytes, the register space inside its two banks, the ROM only where the profile supplies a supervisory routine; the record
of undefined bits of F that have been 1 gained undefined bits or nothing. By default a field is shown by evaluation, so a
proof names the written memories alone. -/
structure Evolves (s t : State) : Prop where
  profile : t.profile = s.profile := by exact rfl
  wdt : t.wdt = s.wdt := by exact rfl
  epoch : t.epoch = s.epoch := by exact rfl
  ram : WrittenWithin none (fun key => ramKeyOk s.profile key = true) s.ram t.ram := by exact .refl
  regs : WrittenWithin (some 0x00#8) (· < 512) s.regs t.regs := by exact .refl
  rom : WrittenWithin none (fun addr => s.profile.srom = true ∧ addr < 65536) s.rom t.rom := by exact .refl
  spare : ∃ v, t.spare = s.spare ||| (v &&& undefinedBits) := by exact ⟨0x00#8, BitVec.or_zero.symm⟩

theorem Evolves.trans {s t u : State} (h : Evolves s t) (h' : Evolves t u) : Evolves s u := by
  obtain ⟨v, hv⟩ := h.spare
  obtain ⟨w, hw⟩ := h'.spare
  refine ⟨h'.profile.trans h.profile, h'.wdt.trans h.wdt, h'.epoch.trans h.epoch, h.ram.trans ?_,
    h.regs.trans h'.regs, h.rom.trans ?_, v ||| w, ?_⟩
  · exact h.profile ▸ h'.ram
  · exact h.profile ▸ h'.rom
  · rw [hw, hv, BitVec.or_assoc, ← BitVec.and_or_distrib_right]

/-- A register-space write stores inside the two banks, or nowhere at the mirror of F (20_memory.md R91, R92). -/
theorem regs_writtenWithin_of_regWr (s : State) (ea v : Byte) :
    WrittenWithin (some 0x00#8) (· < 512) s.regs
      (if isFMirror s.profile ea then s.regs else Memory.put (some 0x00#8) s.regs (regLoc s.f ea) v) := by
  split
  · exact .refl
  · exact .put (regLoc_lt s.f ea)

theorem pollIrq_evolves (s : State) : Evolves s s.pollIrq := {}

theorem pushWord_evolves {s t : State} {w : Word} (h : pushWord s w = .ok t) : Evolves s t := by
  obtain ⟨hhi, hlo, rfl⟩ := pushWord_eq_ok.1 h
  exact { ram := .trans (.put (ramKeyOk_of_ramOk hhi)) (.put (ramKeyOk_of_ramOk hlo)) }

theorem enterHandler_evolves {s t : State} {ret target : Word} (h : enterHandler s ret target = .ok t) :
    Evolves s t := by
  obtain ⟨hhi, hlo, hf, rfl⟩ := enterHandler_eq_ok.1 h
  exact { ram := .trans (.trans (.put (ramKeyOk_of_ramOk hhi)) (.put (ramKeyOk_of_ramOk hlo)))
            (.put (ramKeyOk_of_ramOk hf)) }

theorem returnFromInterrupt_evolves {s t : State} (h : returnFromInterrupt s = .ok t) : Evolves s t := by
  obtain ⟨-, -, -, rfl⟩ := returnFromInterrupt_eq_ok.1 h
  exact { spare := ⟨_, rfl⟩ }

theorem applySrom_evolves {s : State} (e : SromEffect) (hsrom : s.profile.srom = true) : Evolves s (applySrom s e) where
  ram := ⟨_, sromRamWrites_ok, rfl⟩
  regs := ⟨_, sromRegWrites_ok, rfl⟩
  rom := ⟨_, fun c hc => ⟨hsrom, sromRomWrites_ok c hc⟩, rfl⟩
  spare := ⟨e.spare, rfl⟩

theorem execSsc_evolves {s t : State} (h : execSsc s = .next t) : Evolves s t := by
  obtain ⟨u, henter, hsrom, hreturn⟩ := execSsc_eq_next.1 h
  exact (enterHandler_evolves henter).trans ((applySrom_evolves _ hsrom).trans (returnFromInterrupt_evolves hreturn))

/-- Every instruction evolves the state. The cases are the operand forms, by the memory they write. -/
theorem exec_evolves {i : Instr} {s t : State} (h : exec i s = .next t) : Evolves s t := by
  cases i with
  | ssc => exact execSsc_evolves h
  -- No memory.
  | addAImm | adcAImm | subAImm | sbbAImm | andAImm | orAImm | xorAImm | cmpAImm
  | aslA | asrA | rlcA | rrcA | cplA | incA | decA | incX | decX
  | movAImm | movXImm | movAX | movXA | movXSp | swapAX | swapASp | addSp | nop | jmp | ljmp | jacc =>
    obtain rfl := Host.Outcome.next.inj h
    exact {}
  | andF | orF | xorF =>
    obtain rfl := Host.Outcome.next.inj h
    exact { spare := ⟨_, rfl⟩ }
  | jz | jnz | jc | jnc =>
    obtain rfl := Host.Outcome.next.inj ((jumpIf_next _ _ s).symm.trans h)
    exact {}
  -- Memory read only.
  | addADir | addAIdx | adcADir | adcAIdx | subADir | subAIdx | sbbADir | sbbAIdx
  | andADir | andAIdx | orADir | orAIdx | xorADir | xorAIdx =>
    obtain ⟨-, rfl⟩ := accRam_eq_next.1 h
    exact {}
  | cmpADir | cmpAIdx =>
    obtain ⟨-, rfl⟩ := testAccRam_eq_next.1 h
    exact {}
  | cmpDirImm | cmpIdxImm | tstDir | tstIdx =>
    obtain ⟨-, rfl⟩ := testRam_eq_next.1 h
    exact {}
  | movADir | movAIdx =>
    obtain ⟨-, rfl⟩ := loadARam_eq_next.1 h
    exact {}
  | movXDir | movXIdx =>
    obtain ⟨-, rfl⟩ := loadXRam_eq_next.1 h
    exact {}
  | romx | index =>
    obtain ⟨_, -, rfl⟩ := loadARom_eq_next.1 h
    exact {}
  | popA =>
    obtain ⟨-, rfl⟩ := execPopA_eq_next.1 h
    exact {}
  | popX =>
    obtain ⟨-, rfl⟩ := execPopX_eq_next.1 h
    exact {}
  | ret =>
    obtain ⟨-, -, rfl⟩ := execRet_eq_next.1 h
    exact {}
  | reti => exact returnFromInterrupt_evolves (execReti_eq_next.1 h)
  | tstReg | tstRegIdx =>
    obtain rfl := Host.Outcome.next.inj ((testReg_next _ _ _ s).symm.trans h)
    exact {}
  | movAReg | movARegIdx =>
    obtain rfl := Host.Outcome.next.inj ((loadAReg_next _ s).symm.trans h)
    exact {}
  -- RAM written in the current page, or in that of `MVI`.
  | addDirA | addIdxA | addDirImm | addIdxImm | adcDirA | adcIdxA | adcDirImm | adcIdxImm
  | subDirA | subIdxA | subDirImm | subIdxImm | sbbDirA | sbbIdxA | sbbDirImm | sbbIdxImm
  | andDirA | andIdxA | andDirImm | andIdxImm | orDirA | orIdxA | orDirImm | orIdxImm
  | xorDirA | xorIdxA | xorDirImm | xorIdxImm =>
    obtain ⟨hok, rfl⟩ := ramBin_eq_next.1 h
    exact { ram := .put (ramKeyOk_of_ramOk hok) }
  | aslDir | aslIdx | asrDir | asrIdx | rlcDir | rlcIdx | rrcDir | rrcIdx
  | incDir | incIdx | decDir | decIdx =>
    obtain ⟨hok, rfl⟩ := unRam_eq_next.1 h
    exact { ram := .put (ramKeyOk_of_ramOk hok) }
  | movDirA | movIdxA | movDirImm | movIdxImm | movDirX =>
    obtain ⟨hok, rfl⟩ := storeRam_eq_next.1 h
    exact { ram := .put (ramKeyOk_of_ramOk hok) }
  | swapADir =>
    obtain ⟨hok, rfl⟩ := execSwapADir_eq_next.1 h
    exact { ram := .put (ramKeyOk_of_ramOk hok) }
  | swapXDir =>
    obtain ⟨hok, rfl⟩ := execSwapXDir_eq_next.1 h
    exact { ram := .put (ramKeyOk_of_ramOk hok) }
  | movDirDir =>
    obtain ⟨-, hok, rfl⟩ := execMovDirDir_eq_next.1 h
    exact { ram := .put (ramKeyOk_of_ramOk hok) }
  | mviRead =>
    obtain ⟨hok, -, rfl⟩ := execMviRead_eq_next.1 h
    exact { ram := .put (ramKeyOk_of_ramOk hok) }
  | mviWrite =>
    obtain ⟨hok, hmvi, rfl⟩ := execMviWrite_eq_next.1 h
    exact { ram := .trans (.put (ramKeyOk_of_ramOk hmvi)) (.put (ramKeyOk_of_ramOk hok)) }
  -- RAM written in the stack page.
  | pushA =>
    obtain ⟨hok, rfl⟩ := execPushA_eq_next.1 h
    exact { ram := .put (ramKeyOk_of_ramOk hok) }
  | pushX =>
    obtain ⟨hok, rfl⟩ := execPushX_eq_next.1 h
    exact { ram := .put (ramKeyOk_of_ramOk hok) }
  | call | lcall =>
    obtain ⟨_, hpush, rfl⟩ := callTo_eq_next.1 h
    exact (pushWord_evolves hpush).trans {}
  -- The register space written.
  | andReg | andRegIdx | orReg | orRegIdx | xorReg | xorRegIdx =>
    obtain rfl := Host.Outcome.next.inj ((regBin_next _ _ _ _ s).symm.trans h)
    exact { regs := regs_writtenWithin_of_regWr s _ _ }
  | movRegA | movRegIdxA | movRegImm | movRegIdxImm =>
    obtain rfl := Host.Outcome.next.inj ((storeReg_next _ _ _ s).symm.trans h)
    exact { regs := regs_writtenWithin_of_regWr s _ _ }
  | halt =>
    obtain rfl := Host.Outcome.next.inj ((execHalt_next s).symm.trans h)
    exact { regs := regs_writtenWithin_of_regWr s _ _ }

/-! One step. -/

/-- What a step that answers a next state did: it took an interrupt, or it executed an instruction. -/
theorem step_eq_next {s t : State} (h : step s = .next t) :
    (∃ n, enterInterrupt s.pollIrq n = .ok t) ∨ ∃ i, exec i s.pollIrq = .next t := by
  unfold step at h
  split at h
  · cases h
  · split at h
    · exact .inl ⟨_, ofExcept_eq_next.1 h⟩
    · split at h
      · cases h
      · exact .inr ⟨_, h⟩

theorem step_evolves {s t : State} (h : step s = .next t) : Evolves s t := by
  refine (pollIrq_evolves s).trans ?_
  rcases step_eq_next h with ⟨n, henter⟩ | ⟨i, hexec⟩
  · exact enterHandler_evolves henter
  · exact exec_evolves hexec

/-- Settles O15: the ROM is written only by a routine that the profile supplies. -/
theorem romIsConstant : Obligations.RomIsConstant := by
  intro s t h
  have hev := step_evolves h
  refine ⟨hev.profile, hev.wdt, hev.epoch, fun hsrom => hev.rom.eq_of_none_ok ?_⟩
  simp [hsrom]

/-! The undefined bits of F. -/

/-- Every undefined bit that is 1 in F is recorded in `spare` (10_state.md R42). -/
def UndefinedRecorded (s : State) : Prop := s.f &&& undefinedBits &&& ~~~s.spare = 0x00#8

/-- A write of the whole of F records what it sets. -/
theorem undefinedRecorded_writeF (s : State) (v : Byte) : UndefinedRecorded (s.writeF v) := by
  simp only [UndefinedRecorded, State.writeF_f, State.writeF_spare]
  rw [BitVec.not_or, ← BitVec.and_assoc, BitVec.and_assoc (v &&& undefinedBits), BitVec.and_comm (~~~s.spare),
    ← BitVec.and_assoc, BitVec.and_not_self]
  exact BitVec.zero_and

/-- A step that leaves the undefined bits of F alone leaves them recorded. -/
theorem Evolves.keeps_undefinedRecorded {s t : State} (h : Evolves s t)
    (hf : t.f &&& undefinedBits = s.f &&& undefinedBits) (hs : UndefinedRecorded s) : UndefinedRecorded t := by
  obtain ⟨v, hv⟩ := h.spare
  rw [UndefinedRecorded, hf, hv, BitVec.not_or, ← BitVec.and_assoc, hs, BitVec.zero_and]

/-- Outside the whole-byte class no undefined bit of F changes (10_state.md R51). -/
theorem FlagClass.Allows.undefinedBits_eq {c : FlagClass} {f f' : Byte} (h : c.Allows f f') (hc : c ≠ .whole) :
    f' &&& undefinedBits = f &&& undefinedBits := by
  cases c with
  | none => exact congrArg (· &&& undefinedBits) h
  | z => simpa [BitVec.and_assoc, undefinedBits] using congrArg (· &&& undefinedBits) h
  | cz => simpa [BitVec.and_assoc, undefinedBits] using congrArg (· &&& undefinedBits) h
  | whole => exact absurd rfl hc

theorem returnFromInterrupt_undefinedRecorded {s t : State} (h : returnFromInterrupt s = .ok t) :
    UndefinedRecorded t := by
  obtain ⟨-, -, -, rfl⟩ := returnFromInterrupt_eq_ok.1 h
  exact undefinedRecorded_writeF s _

/-- Every instruction keeps the undefined bits of F recorded: it leaves them alone, or it writes the whole of F. -/
theorem exec_keeps_undefinedRecorded {i : Instr} {s t : State} (h : exec i s = .next t) (hs : UndefinedRecorded s) :
    UndefinedRecorded t := by
  by_cases hclass : flagClass i = .whole
  · cases i with
    | andF | orF | xorF =>
      obtain rfl := Host.Outcome.next.inj h
      exact undefinedRecorded_writeF s _
    | reti => exact returnFromInterrupt_undefinedRecorded (execReti_eq_next.1 h)
    | ssc =>
      obtain ⟨_, -, -, hreturn⟩ := execSsc_eq_next.1 h
      exact returnFromInterrupt_undefinedRecorded hreturn
    | _ => cases hclass
  · exact (exec_evolves h).keeps_undefinedRecorded ((exec_flags_allowed h rfl).undefinedBits_eq hclass) hs

theorem enterHandler_undefinedRecorded {s t : State} {ret target : Word} (h : enterHandler s ret target = .ok t) :
    UndefinedRecorded t := by
  obtain ⟨-, -, -, rfl⟩ := enterHandler_eq_ok.1 h
  simp [UndefinedRecorded]

theorem step_keeps_undefinedRecorded {s t : State} (h : step s = .next t) (hs : UndefinedRecorded s) :
    UndefinedRecorded t := by
  rcases step_eq_next h with ⟨n, henter⟩ | ⟨i, hexec⟩
  · exact enterHandler_undefinedRecorded henter
  · exact exec_keeps_undefinedRecorded hexec hs

/-! The invariant. -/

/-- The record of undefined bits holds nothing else. -/
theorem Evolves.keeps_spare {s t : State} (h : Evolves s t) (hs : s.spare &&& ~~~undefinedBits = 0x00#8) :
    t.spare &&& ~~~undefinedBits = 0x00#8 := by
  obtain ⟨v, hv⟩ := h.spare
  rw [hv, BitVec.and_or_distrib_right, hs, BitVec.and_assoc, BitVec.and_not_self]
  simp

/-- Settles O14: the writes of a step keep each memory in canonical form and its keys inside its space, and what a step
does to F is recorded. -/
theorem stepKeepsWellFormed : Obligations.StepKeepsWellFormed := by
  intro s t ⟨hram, hregs, hrom, hspare, hf⟩ h
  have hev := step_evolves h
  refine ⟨?_, hev.regs.keeps_wf (fun _ => id) hregs, hev.rom.keeps_wf (fun _ hok => hok.2) hrom,
    hev.keeps_spare hspare, step_keeps_undefinedRecorded h hf⟩
  rw [hev.profile]
  exact hev.ram.keeps_wf (fun _ => id) hram

end Sys2Proof.Machine

/-! PROOFS. Data accesses and the ROM: with another ROM an instruction that reads no ROM byte does the same. -/

namespace Sys2Proof.Machine

/-- The state with another ROM. -/
def State.withRom (rom : List Host.Cell) (s : State) : State := { s with rom := rom }

/-- The outcome whose next state, if there is one, has another ROM. -/
def resultWithRom (rom : List Host.Cell) : Result → Result
  | .next t => .next (t.withRom rom)
  | .fault r => .fault r
  | .refused r => .refused r

section
variable (rom : List Host.Cell) (s : State)

@[simp] theorem State.withRom_a : (s.withRom rom).a = s.a := rfl

@[simp] theorem State.withRom_x : (s.withRom rom).x = s.x := rfl

@[simp] theorem State.withRom_f : (s.withRom rom).f = s.f := rfl

@[simp] theorem State.withRom_sp : (s.withRom rom).sp = s.sp := rfl

@[simp] theorem stackPage_withRom : stackPage (s.withRom rom) = stackPage s := rfl

@[simp] theorem mviReadPage_withRom : mviReadPage (s.withRom rom) = mviReadPage s := rfl

@[simp] theorem mviWritePage_withRom : mviWritePage (s.withRom rom) = mviWritePage s := rfl

@[simp] theorem resultWithRom_ofExcept (e : Except Refusal State) :
    resultWithRom rom (ofExcept e) = ofExcept (e.map (State.withRom rom)) := by cases e <;> rfl

/-! Each operation on RAM, the stack and the register space commutes with the exchange of the ROM. -/

@[simp] theorem readRam_withRom (page : Nat) (addr : Byte) : readRam (s.withRom rom) page addr = readRam s page addr := rfl

@[simp] theorem ramRd_withRom (addr : Byte) : ramRd (s.withRom rom) addr = ramRd s addr := rfl

@[simp] theorem writeRam_withRom (page : Nat) (addr v : Byte) :
    writeRam (s.withRom rom) page addr v = (writeRam s page addr v).map (State.withRom rom) := by
  cases h : ramOk s.profile page addr with
  | false => rw [writeRam_of_not_ok v h, writeRam_of_not_ok (s := s.withRom rom) v h]; rfl
  | true => rw [writeRam_of_ok v h, writeRam_of_ok (s := s.withRom rom) v h]; rfl

@[simp] theorem ramWr_withRom (addr v : Byte) :
    ramWr (s.withRom rom) addr v = (ramWr s addr v).map (State.withRom rom) := writeRam_withRom rom s _ addr v

@[simp] theorem push_withRom (v : Byte) : push (s.withRom rom) v = (push s v).map (State.withRom rom) := by
  simp only [push, writeRam_withRom, stackPage_withRom, State.withRom_sp]
  cases writeRam s (stackPage s) s.sp v <;> rfl

@[simp] theorem pushWord_withRom (w : Word) : pushWord (s.withRom rom) w = (pushWord s w).map (State.withRom rom) := by
  simp only [pushWord, push_withRom]
  cases push s (w.extractLsb' 8 8) with
  | error r => rfl
  | ok t => exact push_withRom rom t _

@[simp] theorem pop_withRom : pop (s.withRom rom) = (pop s).map (Prod.map id (State.withRom rom)) := by
  simp only [pop, readRam_withRom, stackPage_withRom, State.withRom_sp]
  cases readRam s (stackPage s) (s.sp - 1) <;> rfl

@[simp] theorem popWord_withRom : popWord (s.withRom rom) = (popWord s).map (Prod.map id (State.withRom rom)) := by
  simp only [popWord, pop_withRom]
  cases pop s with
  | error r => rfl
  | ok p =>
    simp only [Except.map, Prod.map, pop_withRom]
    cases pop p.2 <;> rfl

@[simp] theorem returnFromInterrupt_withRom :
    returnFromInterrupt (s.withRom rom) = (returnFromInterrupt s).map (State.withRom rom) := by
  simp only [returnFromInterrupt, pop_withRom]
  cases pop s with
  | error r => rfl
  | ok p =>
    simp only [Except.map, Prod.map, popWord_withRom]
    cases popWord p.2 <;> rfl

@[simp] theorem regRd_withRom (ea : Byte) :
    regRd (s.withRom rom) ea = Prod.map id (State.withRom rom) (regRd s ea) := by
  unfold regRd observeF State.withRom
  split_ifs <;> rfl

/-! Each operand form commutes with it. -/

variable (ea v : Byte) (n : Word)

theorem accRam_withRom (op : BinOp) : accRam op ea (s.withRom rom) = resultWithRom rom (accRam op ea s) := by
  simp only [accRam, ramRd_withRom]
  cases ramRd s ea <;> rfl

theorem testAccRam_withRom (op : TestOp) :
    testAccRam op ea (s.withRom rom) = resultWithRom rom (testAccRam op ea s) := by
  simp only [testAccRam, ramRd_withRom]
  cases ramRd s ea <;> rfl

theorem testRam_withRom (op : TestOp) : testRam op ea v (s.withRom rom) = resultWithRom rom (testRam op ea v s) := by
  simp only [testRam, ramRd_withRom]
  cases ramRd s ea <;> rfl

theorem loadARam_withRom : loadARam ea (s.withRom rom) = resultWithRom rom (loadARam ea s) := by
  simp only [loadARam, ramRd_withRom]
  cases ramRd s ea <;> rfl

theorem loadXRam_withRom : loadXRam ea (s.withRom rom) = resultWithRom rom (loadXRam ea s) := by
  simp only [loadXRam, ramRd_withRom]
  cases ramRd s ea <;> rfl

theorem storeRam_withRom : storeRam ea v n (s.withRom rom) = resultWithRom rom (storeRam ea v n s) := by
  simp only [storeRam, ramWr_withRom]
  cases ramWr s ea v <;> rfl

theorem ramBin_withRom (op : BinOp) : ramBin op ea v n (s.withRom rom) = resultWithRom rom (ramBin op ea v n s) := by
  simp only [ramBin, ramRd_withRom, ramWr_withRom, State.withRom_f]
  cases ramRd s ea with
  | error r => rfl
  | ok a =>
    dsimp only
    cases ramWr s ea (op s.f a v).1 <;> rfl

theorem unRam_withRom (op : UnOp) : unRam op ea (s.withRom rom) = resultWithRom rom (unRam op ea s) := by
  simp only [unRam, ramRd_withRom, ramWr_withRom, State.withRom_f]
  cases ramRd s ea with
  | error r => rfl
  | ok a =>
    dsimp only
    cases ramWr s ea (op s.f a).1 <;> rfl

theorem regBin_withRom (op : BinOp) : regBin op ea v n (s.withRom rom) = resultWithRom rom (regBin op ea v n s) := by
  rw [regBin_next, regBin_next, regRd_withRom]
  rfl

theorem testReg_withRom (op : TestOp) : testReg op ea v (s.withRom rom) = resultWithRom rom (testReg op ea v s) := by
  rw [testReg_next, testReg_next, regRd_withRom]
  rfl

theorem loadAReg_withRom : loadAReg ea (s.withRom rom) = resultWithRom rom (loadAReg ea s) := by
  rw [loadAReg_next, loadAReg_next, regRd_withRom]
  rfl

theorem storeReg_withRom : storeReg ea v n (s.withRom rom) = resultWithRom rom (storeReg ea v n s) := by
  rw [storeReg_next, storeReg_next]
  rfl

theorem execHalt_withRom : execHalt (s.withRom rom) = resultWithRom rom (execHalt s) := by
  rw [execHalt_next, execHalt_next, regRd_withRom]
  rfl

theorem jumpIf_withRom (taken : Bool) (k : Disp) :
    jumpIf taken k (s.withRom rom) = resultWithRom rom (jumpIf taken k s) := by cases taken <;> rfl

theorem callTo_withRom (ret target : Word) :
    callTo ret target (s.withRom rom) = resultWithRom rom (callTo ret target s) := by
  simp only [callTo, pushWord_withRom]
  cases pushWord s ret <;> rfl

/-! The instructions that have a form of their own. -/

theorem execMovDirDir_withRom (k : Byte) :
    execMovDirDir ea k (s.withRom rom) = resultWithRom rom (execMovDirDir ea k s) := by
  simp only [execMovDirDir, eaDir, ramRd_withRom]
  cases ramRd s k with
  | error r => rfl
  | ok b => exact storeRam_withRom rom s ea b 3

theorem execMviRead_withRom : execMviRead ea (s.withRom rom) = resultWithRom rom (execMviRead ea s) := by
  simp only [execMviRead, ramRd_withRom, readRam_withRom, ramWr_withRom, mviReadPage_withRom]
  cases ramRd s ea with
  | error r => rfl
  | ok p =>
    dsimp only
    cases readRam s (mviReadPage s) p with
    | error r => rfl
    | ok b =>
      dsimp only
      cases ramWr s ea (p + 1) <;> rfl

theorem execMviWrite_withRom : execMviWrite ea (s.withRom rom) = resultWithRom rom (execMviWrite ea s) := by
  simp only [execMviWrite, ramRd_withRom, writeRam_withRom, mviWritePage_withRom, State.withRom_a]
  cases ramRd s ea with
  | error r => rfl
  | ok p =>
    dsimp only
    cases writeRam s (mviWritePage s) p s.a with
    | error r => rfl
    | ok t =>
      simp only [Except.map, ramWr_withRom]
      cases ramWr t ea (p + 1) <;> rfl

theorem execSwapADir_withRom : execSwapADir ea (s.withRom rom) = resultWithRom rom (execSwapADir ea s) := by
  simp only [execSwapADir, eaDir, ramRd_withRom, ramWr_withRom, State.withRom_a]
  cases ramRd s ea with
  | error r => rfl
  | ok b =>
    dsimp only
    cases ramWr s ea s.a <;> rfl

theorem execSwapXDir_withRom : execSwapXDir ea (s.withRom rom) = resultWithRom rom (execSwapXDir ea s) := by
  simp only [execSwapXDir, eaDir, ramRd_withRom, ramWr_withRom, State.withRom_x]
  cases ramRd s ea with
  | error r => rfl
  | ok b =>
    dsimp only
    cases ramWr s ea s.x <;> rfl

theorem execPushA_withRom : execPushA (s.withRom rom) = resultWithRom rom (execPushA s) := by
  simp only [execPushA, push_withRom, State.withRom_a]
  cases push s s.a <;> rfl

theorem execPushX_withRom : execPushX (s.withRom rom) = resultWithRom rom (execPushX s) := by
  simp only [execPushX, push_withRom, State.withRom_x]
  cases push s s.x <;> rfl

theorem execPopA_withRom : execPopA (s.withRom rom) = resultWithRom rom (execPopA s) := by
  simp only [execPopA, pop_withRom]
  cases pop s <;> rfl

theorem execPopX_withRom : execPopX (s.withRom rom) = resultWithRom rom (execPopX s) := by
  simp only [execPopX, pop_withRom]
  cases pop s <;> rfl

theorem execRet_withRom : execRet (s.withRom rom) = resultWithRom rom (execRet s) := by
  simp only [execRet, popWord_withRom]
  cases popWord s <;> rfl

theorem execReti_withRom : execReti (s.withRom rom) = resultWithRom rom (execReti s) := by
  rw [execReti, execReti, returnFromInterrupt_withRom, resultWithRom_ofExcept]

end

/-- An instruction other than `SSC` that reads no ROM byte as data commutes with the exchange of the ROM. The cases are
the operand forms. -/
theorem exec_withRom {i : Instr} (rom : List Host.Cell) (s : State) (hssc : i ≠ .ssc) (hrom : readsRom i = false) :
    exec i (s.withRom rom) = resultWithRom rom (exec i s) := by
  cases i with
  | ssc => exact absurd rfl hssc
  | romx | index => cases hrom
  -- Nothing but the core's registers, the immediate operand and F.
  | addAImm | adcAImm | subAImm | sbbAImm | andAImm | orAImm | xorAImm | cmpAImm | andF | orF | xorF
  | aslA | asrA | rlcA | rrcA | cplA | incA | decA | incX | decX
  | movAImm | movXImm | movAX | movXA | movXSp | swapAX | swapASp | addSp | nop | jmp | ljmp | jacc => rfl
  | jz | jnz | jc | jnc => exact jumpIf_withRom rom s _ _
  -- The register space.
  | andReg | andRegIdx | orReg | orRegIdx | xorReg | xorRegIdx => exact regBin_withRom rom s _ _ _ _
  | tstReg | tstRegIdx => exact testReg_withRom rom s _ _ _
  | movAReg | movARegIdx => exact loadAReg_withRom rom s _
  | movRegA | movRegIdxA | movRegImm | movRegIdxImm => exact storeReg_withRom rom s _ _ _
  | halt => exact execHalt_withRom rom s
  -- RAM.
  | addADir | addAIdx | adcADir | adcAIdx | subADir | subAIdx | sbbADir | sbbAIdx
  | andADir | andAIdx | orADir | orAIdx | xorADir | xorAIdx => exact accRam_withRom rom s _ _
  | addDirA | addIdxA | addDirImm | addIdxImm | adcDirA | adcIdxA | adcDirImm | adcIdxImm
  | subDirA | subIdxA | subDirImm | subIdxImm | sbbDirA | sbbIdxA | sbbDirImm | sbbIdxImm
  | andDirA | andIdxA | andDirImm | andIdxImm | orDirA | orIdxA | orDirImm | orIdxImm
  | xorDirA | xorIdxA | xorDirImm | xorIdxImm => exact ramBin_withRom rom s _ _ _ _
  | aslDir | aslIdx | asrDir | asrIdx | rlcDir | rlcIdx | rrcDir | rrcIdx
  | incDir | incIdx | decDir | decIdx => exact unRam_withRom rom s _ _
  | cmpADir | cmpAIdx => exact testAccRam_withRom rom s _ _
  | cmpDirImm | cmpIdxImm | tstDir | tstIdx => exact testRam_withRom rom s _ _ _
  | movADir | movAIdx => exact loadARam_withRom rom s _
  | movXDir | movXIdx => exact loadXRam_withRom rom s _
  | movDirA | movIdxA | movDirImm | movIdxImm | movDirX => exact storeRam_withRom rom s _ _ _
  | movDirDir => exact execMovDirDir_withRom rom s _ _
  | mviRead => exact execMviRead_withRom rom s _
  | mviWrite => exact execMviWrite_withRom rom s _
  | swapADir => exact execSwapADir_withRom rom s _
  | swapXDir => exact execSwapXDir_withRom rom s _
  -- The stack.
  | pushA => exact execPushA_withRom rom s
  | pushX => exact execPushX_withRom rom s
  | popA => exact execPopA_withRom rom s
  | popX => exact execPopX_withRom rom s
  | call | lcall => exact callTo_withRom rom s _ _
  | ret => exact execRet_withRom rom s
  | reti => exact execReti_withRom rom s

/-- Such an instruction leaves the ROM alone: exchanging the ROM for itself gives the next state back. -/
theorem exec_rom_eq {i : Instr} {s t : State} (hssc : i ≠ .ssc) (hrom : readsRom i = false) (h : exec i s = .next t) :
    t.rom = s.rom := by
  have hself : exec i s = resultWithRom s.rom (exec i s) := exec_withRom s.rom s hssc hrom
  rw [h] at hself
  have ht : t = t.withRom s.rom := Host.Outcome.next.inj hself
  rw [ht]
  rfl

/-- Settles O22: the two outcomes are those of `exec_withRom`. -/
theorem dataNeverReadsCode : Obligations.DataNeverReadsCode := by
  intro i s rom hssc hrom
  have hexec : exec i { s with rom := rom } = resultWithRom rom (exec i s) := exec_withRom rom s hssc hrom
  refine ⟨fun t h => ⟨?_, exec_rom_eq hssc hrom h⟩, fun r h => ?_⟩
  · rw [hexec, h]
    rfl
  · rw [hexec, h]
    rfl

end Sys2Proof.Machine

/-! PROOFS. Register-space reads and RAM pages. -/

namespace Sys2Proof.Machine

theorem isFMirror_eq_true {p : Profile} {ea : Byte} : isFMirror p ea = true ↔ p.fReadable = true ∧ ea = 0xF7#8 := by
  rw [isFMirror, Bool.and_eq_true, decide_eq_true_iff, fAddr]

theorem observeF_bus (s : State) : (observeF s).2.bus = s.bus := by rw [observeF_state]

/-- A read of the mirror of F observes F; the platform does not see it (20_memory.md R92). -/
theorem regRd_mirror {s : State} {ea : Byte} (h : isFMirror s.profile ea = true) : regRd s ea = observeF s :=
  if_pos h

/-- A read of a plain location gives its stored byte and is recorded (20_memory.md R91, D20). -/
theorem regRd_plain {s : State} {ea : Byte} (h : isFMirror s.profile ea = false)
    (hdev : regLoc s.f ea ∉ s.profile.devices) :
    regRd s ea = (regByte s (regLoc s.f ea), s.logAccess ⟨.read, regLoc s.f ea, regByte s (regLoc s.f ea)⟩) := by
  simp [regRd, h, hdev]

/-- A read of a location that a device owns gives the next free byte and is recorded (20_memory.md R91). -/
theorem regRd_device {s : State} {ea : Byte} (h : isFMirror s.profile ea = false)
    (hdev : regLoc s.f ea ∈ s.profile.devices) :
    regRd s ea = (Config.freeByte s.fresh,
      s.draw.logAccess ⟨.read, regLoc s.f ea, Config.freeByte s.fresh⟩) := by
  simp [regRd, h, hdev]

/-- An access is not to the mirror of F where F is not readable or the address is another one. -/
theorem isFMirror_eq_false {p : Profile} {ea : Byte} (h : p.fReadable = false ∨ ea ≠ 0xF7#8) :
    isFMirror p ea = false := by
  rw [← Bool.not_eq_true, isFMirror_eq_true]
  rintro ⟨hread, haddr⟩
  rcases h with h | h
  · exact absurd hread (by simp [h])
  · exact h haddr

/-- Settles O37: one clause for each of the three kinds of location. -/
theorem registerReads : Obligations.RegisterReads := by
  intro s addr
  refine ⟨regRd_state s addr, fun hread haddr => ?_, fun h hdev => regRd_plain (isFMirror_eq_false h) hdev,
    fun h hdev => regRd_device (isFMirror_eq_false h) hdev⟩
  rw [regRd_mirror (isFMirror_eq_true.2 ⟨hread, haddr⟩)]
  exact ⟨observeF_bits s, observeF_bus s, observeF_defined⟩

/-! RAM pages of a device with more than one page. -/

section
variable {s : State} (h : 1 < s.profile.ramPages)
include h

theorem stackPage_of_pages : stackPage s = s.profile.stackPage := if_neg (Nat.not_le.2 h)

theorem mviReadPage_of_pages : mviReadPage s = (regByte s s.profile.dprDr).toNat := if_neg (Nat.not_le.2 h)

theorem mviWritePage_of_pages : mviWritePage s = (regByte s s.profile.dpwDr).toNat := if_neg (Nat.not_le.2 h)

theorem curPage_of_pointer (hrule : s.profile.pageRule = .pointer) :
    curPage s = (regByte s s.profile.cppDr).toNat := by
  simp only [curPage, if_neg (Nat.not_le.2 h), hrule]

theorem curPage_of_device (hrule : s.profile.pageRule = .device) :
    curPage s = Config.curPage (regByte s s.profile.cppDr) (flagPMODE s.f) := by
  simp only [curPage, if_neg (Nat.not_le.2 h), hrule]

end

/-- A byte moved to a register other than the mirror of F is stored there; the parameters are as they were. -/
theorem exec_movRegImm_stores (s : State) (k v : Byte) (hk : isFMirror s.profile k = false) :
    ∃ t, exec (.movRegImm k v) s = .next t ∧ t.profile = s.profile ∧ regByte t (regLoc s.f k) = v := by
  refine ⟨_, storeReg_next k v 3 s, rfl, ?_⟩
  simp [regByte, hk, Memory.readD_put_some]

/-- Settles O57: the pages by the number of them, and the page pointers after a move to them. -/
theorem ramPages : Obligations.RamPages := by
  refine ⟨fun s h => ⟨curPage_of_one_page h, stackPage_of_one_page h, mviReadPage_of_one_page h,
      mviWritePage_of_one_page h⟩,
    fun s h => ⟨stackPage_of_pages h, mviReadPage_of_pages h, mviWritePage_of_pages h, curPage_of_pointer h,
      curPage_of_device h⟩,
    fun s k v h hk => ?_⟩
  obtain ⟨t, hexec, hprofile, hstored⟩ := exec_movRegImm_stores s k v hk
  rw [← hprofile] at h ⊢
  refine ⟨t, hexec, fun hloc => ?_, fun hloc => ?_, fun hloc hrule => ?_⟩
  · rw [mviReadPage_of_pages h, ← hloc, hstored]
  · rw [mviWritePage_of_pages h, ← hloc, hstored]
  · rw [curPage_of_pointer h hrule, ← hloc, hstored]

end Sys2Proof.Machine

/-! PROOFS. Fetch: the bytes at PC, the instruction they encode, and the refusal of a byte that cannot be read. -/

namespace Sys2Proof

/-- Decoding an encoding, with any bytes after it, gives the instruction back (30_encoding.md R131, R134 to R138). The
cases are the formats: relative and long operands are reassembled, the others are bytes of the encoding. -/
theorem decode_encode (i : Instr) (rest : List Byte) : decode (encode i ++ rest) = .instr i rest := by
  cases i with
  | jmp k => exact decode_encodeRel 0x8#4 k rest Instr.jmp (by decide) rfl
  | call k => exact decode_encodeRel 0x9#4 k rest Instr.call (by decide) rfl
  | jz k => exact decode_encodeRel 0xA#4 k rest Instr.jz (by decide) rfl
  | jnz k => exact decode_encodeRel 0xB#4 k rest Instr.jnz (by decide) rfl
  | jc k => exact decode_encodeRel 0xC#4 k rest Instr.jc (by decide) rfl
  | jnc k => exact decode_encodeRel 0xD#4 k rest Instr.jnc (by decide) rfl
  | jacc k => exact decode_encodeRel 0xE#4 k rest Instr.jacc (by decide) rfl
  | index k => exact decode_encodeRel 0xF#4 k rest Instr.index (by decide) rfl
  | lcall k => exact congrArg (fun w => DecodeResult.instr (.lcall w) rest) (longOperand_encodeLong k)
  | ljmp k => exact congrArg (fun w => DecodeResult.instr (.ljmp w) rest) (longOperand_encodeLong k)
  | _ => rfl

/-- The length that byte 0 of an encoding asks for is the encoding's (30_encoding.md R133). -/
theorem opcodeLength_encode (i : Instr) : (encode i).head?.map opcodeLength = some (encode i).length := by
  cases i with
  | jmp k => exact (Laws.EncodedLength.jmp k).2
  | call k => exact (Laws.EncodedLength.call k).2
  | jz k => exact (Laws.EncodedLength.jz k).2
  | jnz k => exact (Laws.EncodedLength.jnz k).2
  | jc k => exact (Laws.EncodedLength.jc k).2
  | jnc k => exact (Laws.EncodedLength.jnc k).2
  | jacc k => exact (Laws.EncodedLength.jacc k).2
  | index k => exact (Laws.EncodedLength.index k).2
  | _ => rfl

/-- Every byte 0 asks for at least one byte. -/
theorem opcodeLength_pos (b0 : Byte) : 0 < opcodeLength b0 := by
  unfold opcodeLength
  split
  · rename_i row _
    cases row <;> exact Nat.succ_pos _
  · exact Nat.one_pos

end Sys2Proof

namespace Sys2Proof.Machine

/-! Reading the instruction's bytes. -/

/-- Bytes that stand in readable ROM are the bytes fetched from there (20_memory.md R81). -/
theorem fetchFrom_of_bytesAt {s : State} {addr : Word} {bs : List Byte} (h : BytesAt s addr bs) :
    fetchFrom s addr bs.length = .ok bs := by
  induction bs generalizing addr with
  | nil => rfl
  | cons b bs ih =>
    obtain ⟨hb, hbs⟩ := h
    simp only [List.length_cons, fetchFrom, hb, ih hbs]

/-- A byte that cannot be read stops the fetch (20_memory.md R95). -/
theorem fetchFrom_of_error {s : State} {addr : Word} {r : Refusal} (n : Nat) (h : romRd s addr = .error r) :
    fetchFrom s addr (n + 1) = .error r := by simp only [fetchFrom, h]

/-- Where the first byte can be read, a fetch that stops after it stops for the same reason. -/
theorem fetchFrom_succ_of_error {s : State} {addr : Word} {b : Byte} {r : Refusal} {n : Nat}
    (hb : romRd s addr = .ok b) (h : fetchFrom s (addr + 1) n = .error r) : fetchFrom s addr (n + 1) = .error r := by
  simp only [fetchFrom, hb, h]

theorem fetchBytes_of_bytesAt {s : State} {i : Instr} (h : BytesAt s s.pc (encode i)) :
    fetchBytes s = .ok (encode i) := by
  have hlength := opcodeLength_encode i
  generalize encode i = bs at h hlength
  cases bs with
  | nil => cases hlength
  | cons b0 bs =>
    have hb0 : opcodeLength b0 = (b0 :: bs).length := Option.some.inj hlength
    simp only [fetchBytes, h.1, hb0]
    exact fetchFrom_of_bytesAt h

theorem fetchInstr_of_bytesAt {s : State} {i : Instr} (h : BytesAt s s.pc (encode i)) : fetchInstr s = .ok i := by
  have hdecode := decode_encode i []
  rw [List.append_nil] at hdecode
  simp only [fetchInstr, fetchBytes_of_bytesAt h, hdecode]

theorem fetchInstr_of_fetchBytes_error {s : State} {r : Refusal} (h : fetchBytes s = .error r) :
    fetchInstr s = .error r := by simp only [fetchInstr, h]

/-! A step that takes no request. -/

section
variable {s : State} (hrun : s.halted = false) (hirq : takenIrq s = none)
include hrun hirq

theorem step_of_fetchInstr {i : Instr} (h : fetchInstr s = .ok i) : step s = exec i s.pollIrq := by
  simp [step, hrun, hirq, h]

theorem step_of_fetchBytes_error {r : Refusal} (h : fetchBytes s = .error r) : step s = .refused r := by
  simp [step, hrun, hirq, fetchInstr_of_fetchBytes_error h]

end

/-- Settles O6. -/
theorem stepRunsDecodedInstruction : Obligations.StepRunsDecodedInstruction := fun _ _ _ hrun hirq hbytes =>
  step_of_fetchInstr hrun hirq (fetchInstr_of_bytesAt hbytes)

/-! A byte 0, 1 or 2 that cannot be read: the fetch stops there. -/

theorem romRd_of_unreadable {s : State} {addr : Word} (h : RomUnreadable s addr) :
    romRd s addr = .error (.romUnreadable addr) := romRd_eq_error.2 ⟨rfl, h⟩

theorem romRd_of_not_unreadable {s : State} {addr : Word} (h : ¬ RomUnreadable s addr) :
    ∃ v, romRd s addr = .ok v := by
  cases hrd : romRd s addr with
  | error r => exact absurd (romRd_eq_error.1 hrd).2 h
  | ok v => exact ⟨v, rfl⟩

theorem fetchBytes_of_byte0_unreadable {s : State} (h : RomUnreadable s s.pc) :
    fetchBytes s = .error (.romUnreadable s.pc) := by simp only [fetchBytes, romRd_of_unreadable h]

theorem fetchBytes_of_byte1_unreadable {s : State} {b0 : Byte} (hb0 : romRd s s.pc = .ok b0)
    (hlength : opcodeLength b0 ≠ 1) (h : RomUnreadable s (s.pc + 1)) :
    fetchBytes s = .error (.romUnreadable (s.pc + 1)) := by
  obtain ⟨n, hn⟩ : ∃ n, opcodeLength b0 = n + 2 :=
    Nat.exists_eq_add_of_le' (by have := opcodeLength_pos b0; omega)
  simp only [fetchBytes, hb0, hn]
  exact fetchFrom_succ_of_error hb0 (fetchFrom_of_error n (romRd_of_unreadable h))

theorem fetchBytes_of_byte2_unreadable {s : State} {b0 : Byte} (hb0 : romRd s s.pc = .ok b0)
    (hlength : opcodeLength b0 = 3) (h1 : ¬ RomUnreadable s (s.pc + 1)) (h2 : RomUnreadable s (s.pc + 2)) :
    fetchBytes s = .error (.romUnreadable (s.pc + 2)) := by
  obtain ⟨b1, hb1⟩ := romRd_of_not_unreadable h1
  have hpc : s.pc + 2 = s.pc + 1 + 1 := by rw [BitVec.add_assoc]; rfl
  rw [hpc] at h2 ⊢
  simp only [fetchBytes, hb0, hlength]
  exact fetchFrom_succ_of_error hb0 (fetchFrom_succ_of_error hb1 (fetchFrom_of_error 0 (romRd_of_unreadable h2)))

/-- Settles O9: one clause for each byte of the instruction. -/
theorem unreadableFetchIsRefused : Obligations.UnreadableFetchIsRefused := by
  intro s hrun hirq
  refine ⟨fun h => step_of_fetchBytes_error hrun hirq (fetchBytes_of_byte0_unreadable h), fun b0 hb0 => ⟨?_, ?_⟩⟩
  · exact fun hlength h => step_of_fetchBytes_error hrun hirq (fetchBytes_of_byte1_unreadable hb0 hlength h)
  · exact fun hlength h1 h2 =>
      step_of_fetchBytes_error hrun hirq (fetchBytes_of_byte2_unreadable hb0 hlength h1 h2)

end Sys2Proof.Machine

/-! PROOFS. The indexed forms: the direct ones at the address X + k. -/

namespace Sys2Proof.Machine

/-- What the rules of the encoding say of an instruction's own bytes and cycles. -/
theorem rowSays_encode (i : Instr) : RowSays i (encode i) (instrCycles i) := ⟨rfl, decode_encode i, rfl⟩

/-- Two instructions with one meaning in a state where it completes. -/
theorem sameNext_of_exec_eq {i j : Instr} {s : State} (hij : exec i s = exec j s) (hj : ∃ t, exec j s = .next t) :
    SameNext i j s := by
  obtain ⟨t, ht⟩ := hj
  exact ⟨t, hij.trans ht, ht⟩

/-- A form whose one RAM byte is implemented, and another form of the same meaning. -/
theorem sameNext_of_curOk {i j : Instr} {s : State} {addr : Byte} (hok : CurOk s addr) (hssc : j ≠ .ssc)
    (hrom : readsRom j = false) (hram : ramAccesses j s = [(curPage s, addr)]) (hij : exec i s = exec j s) :
    SameNext i j s := by
  refine sameNext_of_exec_eq hij (exec_completes_of_ramAccesses_ok hssc hrom fun c hc => ?_)
  rw [hram, List.mem_singleton] at hc
  subst hc
  exact hok

/-- A form that accesses no RAM, and another form of the same meaning. -/
theorem sameNext_of_no_ramAccess {i j : Instr} {s : State} (hssc : j ≠ .ssc) (hrom : readsRom j = false)
    (hram : ramAccesses j s = []) (hij : exec i s = exec j s) : SameNext i j s :=
  sameNext_of_exec_eq hij (exec_completes_of_ramAccesses_ok hssc hrom (by simp [hram]))

/-- Settles O56: each indexed form is the shared operand form of its direct one, at the address X + k (20_memory.md R86). -/
theorem indexedForms : Obligations.IndexedForms := by
  refine ⟨fun k v => ?_, fun s k v hok => ?_, fun s k v => ?_⟩
  -- `with_reducible`: each list is taken apart, but not `RowSays` and `SameNext`.
  · with_reducible and_intros
    all_goals exact rowSays_encode _
  · with_reducible and_intros
    all_goals exact sameNext_of_curOk hok nofun rfl rfl rfl
  · with_reducible and_intros
    all_goals exact sameNext_of_no_ramAccess nofun rfl rfl rfl

end Sys2Proof.Machine

/-! PROOFS. The encoding: each row of the opcode map is the encoder's inverse, so that decoding undoes encoding and
encoding undoes decoding, and the length of an instruction is a function of its byte 0. -/

namespace Sys2Proof

/-- The other direction of `relOperand_encodeRel`: the bytes that give a 12-bit operand are its encoding, under the
opcode in the upper nibble of byte 0 (30_encoding.md R134). -/
theorem encodeRel_relOperand (b0 b1 : Byte) : encodeRel (b0.extractLsb' 4 4) (relOperand b0 b1) = [b0, b1] := by
  have hhi : (relOperand b0 b1).extractLsb' 8 4 = b0.extractLsb' 0 4 := BitVec.extractLsb'_append_eq_left
  have hlo : (relOperand b0 b1).extractLsb' 0 8 = b1 := BitVec.extractLsb'_append_eq_right
  have hb0 : b0.extractLsb' 4 4 ++ b0.extractLsb' 0 4 = b0 :=
    (BitVec.extractLsb'_append_extractLsb'_eq_extractLsb' rfl).trans BitVec.extractLsb'_eq_self
  rw [encodeRel, hhi, hlo, hb0]

/-- The other direction of `longOperand_encodeLong`: the bytes that give a 16-bit operand are its encoding
(30_encoding.md R136). -/
theorem encodeLong_longOperand (op b1 b2 : Byte) : encodeLong op (b1 ++ b2) = [op, b1, b2] := by
  have hhi : (b1 ++ b2 : Word).extractLsb' 8 8 = b1 := BitVec.extractLsb'_append_eq_left
  have hlo : (b1 ++ b2 : Word).extractLsb' 0 8 = b2 := BitVec.extractLsb'_append_eq_right
  rw [encodeLong, hhi, hlo]

/-! The rows of the opcode map. -/

/-- The instructions that this row makes are encoded in the row's format, with `b0` as byte 0. -/
def Row.EncodesUnder (b0 : Byte) : Row → Prop
  | .f1 i => encode i = [b0]
  | .f2 mk => ∀ k, encode (mk k) = [b0, k]
  | .f3 mk => ∀ k1 k2, encode (mk k1 k2) = [b0, k1, k2]
  | .f3l mk => ∀ k, encode (mk k) = encodeLong b0 k
  | .f2r mk => ∀ k, encode (mk k) = encodeRel (b0.extractLsb' 4 4) k

/-- The rows of a list encode under consecutive values of byte 0, from `n` on. -/
def RowsEncodeFrom (n : Nat) : List Row → Prop
  | [] => True
  | r :: rs => r.EncodesUnder (BitVec.ofNat 8 n) ∧ RowsEncodeFrom (n + 1) rs

theorem RowsEncodeFrom.encodesUnder {n i : Nat} {rs : List Row} {r : Row} (h : RowsEncodeFrom n rs)
    (hi : rs[i]? = some r) : r.EncodesUnder (BitVec.ofNat 8 (n + i)) := by
  induction rs generalizing n i with
  | nil => cases hi
  | cons r' rs ih =>
    cases i with
    | zero =>
      cases hi
      exact h.1
    | succ i =>
      rw [Nat.add_comm i, ← Nat.add_assoc]
      exact ih h.2 hi

/-- Each row's opcode is its index (30_encoding.md R137): a look at each of the 128 rows. -/
theorem opcodeMap_encodes : RowsEncodeFrom 0 opcodeMap := by
  simp [opcodeMap, opcodeMap0, opcodeMap1, opcodeMap2, opcodeMap3, opcodeMap4, opcodeMap5, opcodeMap6, opcodeMap7,
    RowsEncodeFrom, Row.EncodesUnder, encode]

/-- Each row of the relative map encodes under the 4-bit opcode it stands for: 0x8 to 0xF in order. -/
theorem relMap_encodes (op : BitVec 4) (hop : 8 ≤ op.toNat) :
    ∃ mk, relMap[op.toNat - 8]? = some (.f2r mk) ∧ ∀ k, encode (mk k) = encodeRel op k := by
  obtain ⟨n, hn⟩ := op
  change 8 ≤ n at hop
  interval_cases n <;> exact ⟨_, rfl, fun _ => rfl⟩

/-- Byte 0 from 0x80 on selects a relative row (30_encoding.md R134, R137). -/
theorem opcodeRow_of_128_le {b0 : Byte} (h : 128 ≤ b0.toNat) :
    ∃ mk, opcodeRow b0 = some (.f2r mk) ∧ ∀ k, encode (mk k) = encodeRel (b0.extractLsb' 4 4) k := by
  have hop : (b0.extractLsb' 4 4).toNat = b0.toNat / 16 := by
    have := b0.isLt
    simp only [BitVec.extractLsb'_toNat, Nat.shiftRight_eq_div_pow]
    omega
  obtain ⟨mk, hmk, hencode⟩ := relMap_encodes (b0.extractLsb' 4 4) (by omega)
  refine ⟨mk, ?_, hencode⟩
  rw [opcodeRow, if_neg (Nat.not_lt.2 h), ← hop, hmk]

/-- All 256 values of byte 0 select a row (30_encoding.md R138), and the row's instructions begin with that byte. -/
theorem opcodeRow_encodesUnder (b0 : Byte) : ∃ r, opcodeRow b0 = some r ∧ r.EncodesUnder b0 := by
  by_cases h : b0.toNat < 128
  · have hrow : opcodeMap[b0.toNat]? = some opcodeMap[b0.toNat] := List.getElem?_eq_getElem h
    have hencodes := opcodeMap_encodes.encodesUnder hrow
    rw [Nat.zero_add, BitVec.ofNat_toNat, BitVec.setWidth_eq] at hencodes
    exact ⟨_, by rw [opcodeRow, if_pos h, hrow], hencodes⟩
  · obtain ⟨mk, hrow, hencode⟩ := opcodeRow_of_128_le (Nat.le_of_not_lt h)
    exact ⟨_, hrow, hencode⟩

/-! Decoding by a row. -/

/-- What a row reads is the encoding of the instruction it answers. The cases are those of `decodeRow`. -/
theorem encode_of_decodeRow {r : Row} {b0 : Byte} {bs rest : List Byte} {i : Instr} (hr : r.EncodesUnder b0)
    (h : decodeRow r b0 bs = .instr i rest) : b0 :: bs = encode i ++ rest := by
  match r, bs with
  | .f1 _, _ => cases h; rw [hr]; rfl
  | .f2 _, _ :: _ => cases h; rw [hr]; rfl
  | .f3 _, _ :: _ :: _ => cases h; rw [hr]; rfl
  | .f3l _, _ :: _ :: _ => cases h; rw [hr, encodeLong_longOperand]; rfl
  | .f2r _, _ :: _ => cases h; rw [hr, encodeRel_relOperand]; rfl

/-- Two bytes after byte 0 are enough for every row. -/
theorem decodeRow_of_three_bytes (r : Row) (b0 b1 b2 : Byte) (rest : List Byte) :
    ∃ i rest', decodeRow r b0 (b1 :: b2 :: rest) = .instr i rest' := by
  cases r <;> exact ⟨_, _, rfl⟩

theorem decode_cons {b0 : Byte} {r : Row} (bs : List Byte) (h : opcodeRow b0 = some r) :
    decode (b0 :: bs) = decodeRow r b0 bs := by simp only [decode, h]

/-- Encoding what was decoded, before the bytes left over, gives the bytes back. -/
theorem encode_decode {bs rest : List Byte} {i : Instr} (h : decode bs = .instr i rest) : bs = encode i ++ rest := by
  cases bs with
  | nil => cases h
  | cons b0 bs =>
    obtain ⟨r, hrow, hencodes⟩ := opcodeRow_encodesUnder b0
    rw [decode_cons bs hrow] at h
    exact encode_of_decodeRow hencodes h

/-- Settles O1. -/
theorem encodingRoundTrips : Obligations.EncodingRoundTrips := fun i rest _ => decode_encode i rest

/-- Settles O2. -/
theorem decodingRoundTrips : Obligations.DecodingRoundTrips := fun _ _ _ => encode_decode

/-- Settles O4: byte 0 has a row, and no row asks for more than three bytes. -/
theorem everyByteSequenceDecodes : Obligations.EveryByteSequenceDecodes := by
  intro b0 b1 b2 rest
  obtain ⟨r, hrow, -⟩ := opcodeRow_encodesUnder b0
  obtain ⟨i, rest', hdecode⟩ := decodeRow_of_three_bytes r b0 b1 b2 rest
  exact ⟨i, rest', (decode_cons _ hrow).trans hdecode, rfl⟩

/-- Settles O3: the words are closed terms, which the decoder reads by computation. -/
theorem writtenWordsDecode : Obligations.WrittenWordsDecode := by
  unfold Obligations.WrittenWordsDecode
  decide

/-! Lengths. -/

theorem encode_length (i : Instr) : (encode i).length = i.length := by cases i <;> rfl

theorem opcodeLength_of_128_le {b0 : Byte} (h : 128 ≤ b0.toNat) : opcodeLength b0 = 2 := by
  obtain ⟨mk, hrow, -⟩ := opcodeRow_of_128_le h
  simp only [opcodeLength, hrow, Row.length]

/-- A decoded instruction has the length its byte 0 asks for, and that many bytes were read: both are lengths of its
encoding. -/
theorem length_of_decode {b0 : Byte} {bs rest : List Byte} {i : Instr} (h : decode (b0 :: bs) = .instr i rest) :
    i.length = opcodeLength b0 ∧ (b0 :: bs).length = i.length + rest.length := by
  have hbytes := encode_decode h
  have hlength := opcodeLength_encode i
  rw [encode_length] at hlength
  refine ⟨?_, by rw [hbytes, List.length_append, encode_length]⟩
  cases hencode : encode i with
  | nil => simp [hencode] at hlength
  | cons b bs' =>
    rw [hencode] at hbytes hlength
    cases hbytes
    exact (Option.some.inj hlength).symm

/-- Settles O5: the 128 full opcodes row by row; from 0x80 on, where neither list has a value, every length is 2. -/
theorem lengthIsByFirstByte : Obligations.LengthIsByFirstByte := by
  refine ⟨fun b0 => ?_, fun _ _ _ _ => length_of_decode⟩
  by_cases h : b0.toNat < 128
  · obtain ⟨n, hn⟩ := b0
    change n < 128 at h
    interval_cases n <;> rfl
  · rw [opcodeLength_of_128_le (Nat.le_of_not_lt h), if_neg, if_neg]
    all_goals
      intro hmem
      simp only [List.mem_cons, List.not_mem_nil, or_false] at hmem
      omega

end Sys2Proof

/-! PROOFS. The assembler's displacement: in range exactly when it is stored, and then it leads to the target. -/

namespace Sys2Proof

theorem relOperandOk_eq_true {d : Int} : relOperandOk d = true ↔ -2048 ≤ d ∧ d ≤ 2047 := by
  simp [relOperandOk]

theorem relOperandOk_eq_false {d : Int} : relOperandOk d = false ↔ d < -2048 ∨ 2047 < d := by
  rw [← Bool.not_eq_true, relOperandOk_eq_true]
  omega

end Sys2Proof

namespace Sys2Proof.Asm

section
variable {addr relative : Nat} {target : Value}

/-- The only error is a displacement out of range (30_encoding.md R169). -/
theorem displacement_eq_error : displacement addr relative target = .error .branchOutOfRange ↔
    relOperandOk ((target.toNat : Int) - ((addr : Int) + (relative : Int))) = false := by
  cases h : relOperandOk ((target.toNat : Int) - ((addr : Int) + (relative : Int))) <;> simp [displacement, h]

theorem displacement_eq_ok {k : Disp} : displacement addr relative target = .ok k ↔
    relOperandOk ((target.toNat : Int) - ((addr : Int) + (relative : Int))) = true ∧
      BitVec.ofInt 12 ((target.toNat : Int) - ((addr : Int) + (relative : Int))) = k := by
  cases h : relOperandOk ((target.toNat : Int) - ((addr : Int) + (relative : Int))) <;> simp [displacement, h]

end

end Sys2Proof.Asm

namespace Sys2Proof.Machine

/-- A displacement in range is added as it is: 12 bits hold it, and extending its sign gives it back
(30_encoding.md R134). -/
theorem relDisp_ofInt {d : Int} (hd : relOperandOk d = true) : relDisp (BitVec.ofInt 12 d) = BitVec.ofInt 16 d := by
  obtain ⟨hlo, hhi⟩ := relOperandOk_eq_true.1 hd
  apply BitVec.eq_of_toInt_eq
  rw [relDisp, BitVec.toInt_signExtend_of_le (by decide), BitVec.toInt_ofInt_eq_self (by decide) (by omega) (by omega),
    BitVec.toInt_ofInt_eq_self (by decide) (by omega) (by omega)]

/-- The address a stored displacement is relative to, plus the displacement, is the target (modulo 65536: D6). -/
theorem add_relDisp_of_displacement {addr relative : Nat} {target : Asm.Value} {k : Disp}
    (h : Asm.displacement addr relative target = .ok k) :
    BitVec.ofNat 16 addr + BitVec.ofNat 16 relative + relDisp k = target.setWidth 16 := by
  obtain ⟨hrange, rfl⟩ := Asm.displacement_eq_ok.1 h
  rw [relDisp_ofInt hrange]
  simp only [← BitVec.ofInt_natCast, ← BitVec.ofInt_add, ← BitVec.ofNat_toNat]
  congr 1
  omega

/-- A call whose stack bytes are implemented goes to its target (43_control_transfer.md R331). -/
theorem callTo_reaches {s : State} (ret target : Word) (h1 : StackOk s s.sp) (h2 : StackOk s (s.sp + 1)) :
    ∃ t, callTo ret target s = .next t ∧ t.pc = target := by
  obtain ⟨t, ht⟩ := callTo_completes ret target h1 h2
  obtain ⟨u, -, rfl⟩ := callTo_eq_next.1 ht
  exact ⟨_, ht, rfl⟩

/-- Settles O60. -/
theorem assembledJumpsReachTheirTarget : Obligations.AssembledJumpsReachTheirTarget := by
  refine fun addr relative target =>
    ⟨relOperandOk_eq_false.symm.trans Asm.displacement_eq_error.symm, fun k s hk hpc => ?_⟩
  have htarget := add_relDisp_of_displacement hk
  rw [← hpc] at htarget
  refine ⟨?_, ?_⟩
  · rintro rfl
    exact congrArg (fun pc => Host.Outcome.next { s with pc }) htarget
  · rintro rfl h1 h2
    rw [← htarget]
    exact callTo_reaches _ _ h1 h2

end Sys2Proof.Machine

/-! PROOFS. The arithmetic instructions with an immediate or a direct operand: results, C and Z. -/

namespace Sys2Proof.Machine

/-- What an operation that found F = `f` answers, as result and new F: the result is `r`, C says `c`, Z says `z`, and the
other bits of F are kept (40_arithmetic.md R200). -/
def AnswersCZ (f : Byte) (answer : Byte × Byte) (r : Byte) (c z : Prop) : Prop :=
  answer.1 = r ∧ FlagsCZ f answer.2 c z

/-! The operations. -/

theorem add_answersCZ (f a b : Byte) :
    AnswersCZ f (Alu.add f a b) (BitVec.ofNat 8 (a.toNat + b.toNat)) (255 < a.toNat + b.toNat)
      ((a.toNat + b.toNat) % 256 = 0) :=
  ⟨rfl, flagsCZ_ofSum f _⟩

theorem adc_answersCZ (f a b : Byte) :
    AnswersCZ f (Alu.adc f a b) (BitVec.ofNat 8 (a.toNat + b.toNat + carryIn f)) (255 < a.toNat + b.toNat + carryIn f)
      ((a.toNat + b.toNat + carryIn f) % 256 = 0) :=
  ⟨rfl, flagsCZ_ofSum f _⟩

theorem sub_answersCZ (f a b : Byte) :
    AnswersCZ f (Alu.sub f a b) (BitVec.ofInt 8 ((a.toNat : Int) - b.toNat)) ((a.toNat : Int) - b.toNat < 0)
      (((a.toNat : Int) - b.toNat) % 256 = 0) :=
  ⟨rfl, flagsCZ_ofDifference f _⟩

theorem sbb_answersCZ (f a b : Byte) :
    AnswersCZ f (Alu.sbb f a b) (BitVec.ofInt 8 ((a.toNat : Int) - (b.toNat + carryIn f)))
      ((a.toNat : Int) - (b.toNat + carryIn f) < 0) (((a.toNat : Int) - (b.toNat + carryIn f)) % 256 = 0) :=
  ⟨rfl, flagsCZ_ofDifference f _⟩

theorem inc_answersCZ (f a : Byte) : AnswersCZ f (Alu.inc f a) (a + 1) (a + 1 = 0) (a + 1 = 0) :=
  ⟨rfl, (flagsCZ_setFlagsCZ _ _ _).congr decide_eq_true_iff Iff.rfl⟩

theorem dec_answersCZ (f a : Byte) : AnswersCZ f (Alu.dec f a) (a - 1) (a = 0) (a = 1) :=
  ⟨rfl, (flagsCZ_setFlagsCZ _ _ _).congr decide_eq_true_iff (by bv_omega)⟩

/-- The difference of two bytes is negative exactly when the first is lower; since it lies between -255 and 255, it is a
multiple of 256 exactly when they are equal. -/
theorem flagsCZ_cmp (f a b : Byte) : FlagsCZ f (Alu.cmp f a b) (a.toNat < b.toNat) (a = b) :=
  (flagsCZ_ofDifference f _).congr (by omega) (by rw [← BitVec.toNat_inj]; omega)

/-- The carry as `SBB` adds it to an integer. -/
theorem natCast_carryIn (f : Byte) : (carryIn f : Int) = if flagC f then 1 else 0 := Nat.cast_ite _ _ _

/-! The operand forms, for an instruction whose meaning is the form. -/

section
variable {i : Instr} {s : State} {r k v : Byte} {c z : Prop} {n : Word}

theorem writesA_of_accImm {op : BinOp} (hi : exec i s = accImm op v s) (hop : AnswersCZ s.f (op s.f s.a v) r c z) :
    WritesA i s r c z 2 := by
  obtain ⟨rfl, hflags⟩ := hop
  exact ⟨_, hflags, hi⟩

theorem writesA_of_accRam {op : BinOp} (hi : exec i s = accRam op k s) (hok : CurOk s k)
    (hop : AnswersCZ s.f (op s.f s.a (curByte s k)) r c z) : WritesA i s r c z 2 := by
  obtain ⟨rfl, hflags⟩ := hop
  exact ⟨_, hflags, hi.trans (accRam_eq_next.2 ⟨hok, rfl⟩)⟩

theorem writesRam_of_ramBin {op : BinOp} (hi : exec i s = ramBin op k v n s) (hok : CurOk s k)
    (hop : AnswersCZ s.f (op s.f (curByte s k) v) r c z) : WritesRam i s k r c z n := by
  obtain ⟨rfl, hflags⟩ := hop
  exact ⟨_, hi.trans (ramBin_eq_next.2 ⟨hok, rfl⟩), ramStored_put _ _ _ _ _, hflags, rfl⟩

theorem writesA_of_unA {op : UnOp} (hi : exec i s = unA op s) (hop : AnswersCZ s.f (op s.f s.a) r c z) :
    WritesA i s r c z 1 := by
  obtain ⟨rfl, hflags⟩ := hop
  exact ⟨_, hflags, hi⟩

theorem writesX_of_unX {op : UnOp} (hi : exec i s = unX op s) (hop : AnswersCZ s.f (op s.f s.x) r c z) :
    WritesX i s r c z 1 := by
  obtain ⟨rfl, hflags⟩ := hop
  exact ⟨_, hflags, hi⟩

theorem writesRam_of_unRam {op : UnOp} (hi : exec i s = unRam op k s) (hok : CurOk s k)
    (hop : AnswersCZ s.f (op s.f (curByte s k)) r c z) : WritesRam i s k r c z 2 := by
  obtain ⟨rfl, hflags⟩ := hop
  exact ⟨_, hi.trans (unRam_eq_next.2 ⟨hok, rfl⟩), ramStored_put _ _ _ _ _, hflags, rfl⟩

theorem writesFlags_of_testAccImm {op : TestOp} (hi : exec i s = testAccImm op v s)
    (hop : FlagsCZ s.f (op s.f s.a v) c z) : WritesFlags i s c z 2 :=
  ⟨_, hop, hi⟩

theorem writesFlags_of_testAccRam {op : TestOp} (hi : exec i s = testAccRam op k s) (hok : CurOk s k)
    (hop : FlagsCZ s.f (op s.f s.a (curByte s k)) c z) : WritesFlags i s c z 2 :=
  ⟨_, hop, hi.trans (testAccRam_eq_next.2 ⟨hok, rfl⟩)⟩

theorem writesFlags_of_testRam {op : TestOp} (hi : exec i s = testRam op k v s) (hok : CurOk s k)
    (hop : FlagsCZ s.f (op s.f (curByte s k) v) c z) : WritesFlags i s c z 3 :=
  ⟨_, hop, hi.trans (testRam_eq_next.2 ⟨hok, rfl⟩)⟩

end

/-- The four forms that `ADD`, `ADC`, `SUB` and `SBB` share: A and an immediate, A and a RAM byte, a RAM byte and A, a RAM
byte and an immediate. `r`, `c` and `z` are the result and the conditions for C and Z as functions of both operands. -/
theorem binaryForms_write {op : BinOp} {s : State} {k v : Byte} {aImm aDir dirA dirImm : Instr}
    {r : Byte → Byte → Byte} {c z : Byte → Byte → Prop}
    (hop : ∀ a b, AnswersCZ s.f (op s.f a b) (r a b) (c a b) (z a b))
    (haImm : exec aImm s = accImm op v s) (haDir : exec aDir s = accRam op k s)
    (hdirA : exec dirA s = ramBin op k s.a 2 s) (hdirImm : exec dirImm s = ramBin op k v 3 s) :
    let m := curByte s k
    WritesA aImm s (r s.a v) (c s.a v) (z s.a v) 2 ∧
    (CurOk s k →
      WritesA aDir s (r s.a m) (c s.a m) (z s.a m) 2 ∧
      WritesRam dirA s k (r m s.a) (c m s.a) (z m s.a) 2 ∧
      WritesRam dirImm s k (r m v) (c m v) (z m v) 3) :=
  ⟨writesA_of_accImm haImm (hop _ _), fun hok =>
    ⟨writesA_of_accRam haDir hok (hop _ _), writesRam_of_ramBin hdirA hok (hop _ _),
      writesRam_of_ramBin hdirImm hok (hop _ _)⟩⟩

/-! The obligations. -/

/-- Settles O23: `carryIn` is the carry that the statement writes out. -/
theorem adcResults : Obligations.AdcResults :=
  ⟨fun _ _ _ => ⟨rowSays_encode _, rowSays_encode _, rowSays_encode _, rowSays_encode _⟩,
    fun s _ _ => binaryForms_write (adc_answersCZ s.f) rfl rfl rfl rfl⟩

/-- Settles O24. -/
theorem addResults : Obligations.AddResults :=
  ⟨fun _ _ _ => ⟨rowSays_encode _, rowSays_encode _, rowSays_encode _, rowSays_encode _⟩,
    fun s _ _ => binaryForms_write (add_answersCZ s.f) rfl rfl rfl rfl⟩

/-- Settles O25: the carry is a natural number in the model and an integer in the statement. -/
theorem sbbResults : Obligations.SbbResults := by
  refine ⟨fun _ _ _ => ⟨rowSays_encode _, rowSays_encode _, rowSays_encode _, rowSays_encode _⟩, fun s k v => ?_⟩
  simp only [← natCast_carryIn]
  exact binaryForms_write (sbb_answersCZ s.f) rfl rfl rfl rfl

/-- Settles O26. -/
theorem subResults : Obligations.SubResults :=
  ⟨fun _ _ _ => ⟨rowSays_encode _, rowSays_encode _, rowSays_encode _, rowSays_encode _⟩,
    fun s _ _ => binaryForms_write (sub_answersCZ s.f) rfl rfl rfl rfl⟩

/-- Settles O27: the sum of two bytes is the byte of their sum as numbers. -/
theorem addSpResult : Obligations.AddSpResult := by
  refine fun s k => ⟨rowSays_encode _, ?_⟩
  rw [← BitVec.add_def]
  rfl

/-- Settles O28. -/
theorem cmpResults : Obligations.CmpResults :=
  ⟨fun _ _ _ => ⟨rowSays_encode _, rowSays_encode _, rowSays_encode _⟩, fun s _ _ =>
    ⟨writesFlags_of_testAccImm rfl (flagsCZ_cmp s.f _ _), fun hok =>
      ⟨writesFlags_of_testAccRam rfl hok (flagsCZ_cmp s.f _ _), writesFlags_of_testRam rfl hok (flagsCZ_cmp s.f _ _)⟩⟩⟩

/-- Settles O29. -/
theorem incDecResults : Obligations.IncDecResults := by
  refine ⟨fun _ => ?_, fun s k => ⟨?_, ?_, ?_, ?_, fun hok => ⟨?_, ?_⟩⟩⟩
  · exact ⟨rowSays_encode _, rowSays_encode _, rowSays_encode _, rowSays_encode _, rowSays_encode _, rowSays_encode _⟩
  · exact writesA_of_unA rfl (inc_answersCZ s.f _)
  · exact writesX_of_unX rfl (inc_answersCZ s.f _)
  · exact writesA_of_unA rfl (dec_answersCZ s.f _)
  · exact writesX_of_unX rfl (dec_answersCZ s.f _)
  · exact writesRam_of_unRam rfl hok (inc_answersCZ s.f _)
  · exact writesRam_of_unRam rfl hok (dec_answersCZ s.f _)

end Sys2Proof.Machine

/-! PROOFS. The logical instructions with an immediate, a direct or a register-space operand, and those on the whole of F:
results and Z. -/

namespace Sys2Proof.Machine

/-! The operand forms, for an instruction whose meaning is the form and an operation that is logical: it answers
`Alu.ofLogic`, the result and its Z (41_logical.md R260). -/

section
variable {i : Instr} {s : State} {r k v : Byte} {n : Word}

theorem writesAZ_of_accImm {op : BinOp} (hi : exec i s = accImm op v s) (hop : op s.f s.a v = Alu.ofLogic s.f r) :
    WritesAZ i s r 2 :=
  ⟨_, flagsZ_ofLogic s.f r, by rw [hi, accImm, accResult, hop]; rfl⟩

theorem writesAZ_of_accRam {op : BinOp} (hi : exec i s = accRam op k s) (hok : CurOk s k)
    (hop : op s.f s.a (curByte s k) = Alu.ofLogic s.f r) : WritesAZ i s r 2 :=
  ⟨_, flagsZ_ofLogic s.f r, hi.trans (accRam_eq_next.2 ⟨hok, by rw [accResult, hop]; rfl⟩)⟩

theorem writesAZ_of_unA {op : UnOp} (hi : exec i s = unA op s) (hop : op s.f s.a = Alu.ofLogic s.f r) :
    WritesAZ i s r 1 :=
  ⟨_, flagsZ_ofLogic s.f r, by rw [hi, unA, hop]; rfl⟩

theorem writesRamZ_of_ramBin {op : BinOp} (hi : exec i s = ramBin op k v n s) (hok : CurOk s k)
    (hop : op s.f (curByte s k) v = Alu.ofLogic s.f r) : WritesRamZ i s k r n := by
  refine ⟨_, hi.trans (ramBin_eq_next.2 ⟨hok, rfl⟩), ?_⟩
  rw [hop]
  exact ⟨ramStored_put _ _ _ _ _, flagsZ_ofLogic s.f r, rfl⟩

theorem writesZ_of_testRam {op : TestOp} {z : Prop} (hi : exec i s = testRam op k v s) (hok : CurOk s k)
    (hop : FlagsZ s.f (op s.f (curByte s k) v) z) : WritesZ i s z 3 :=
  ⟨_, hop, hi.trans (testRam_eq_next.2 ⟨hok, rfl⟩)⟩

/-- A write that is recorded, and stored unless it is to the mirror of F (20_memory.md R91, R92, D11). -/
theorem regStored_of_put {t : State} {b : List RegAccess} (hbus : t.bus = ⟨.write, regLoc s.f k, v⟩ :: b)
    (hregs : t.regs = if isFMirror s.profile k then s.regs else Memory.put (some 0x00#8) s.regs (regLoc s.f k) v) :
    RegStored s t b k v := by
  refine ⟨hbus, fun loc => ?_⟩
  cases hmirror : isFMirror s.profile k with
  | true => simp [regByte, hregs, hmirror]
  | false => simp [regByte, hregs, hmirror, Memory.readD_put_some]

theorem updatesReg_of_regBin {op : BinOp} {g : Byte → Byte} (hi : exec i s = regBin op k v n s)
    (hop : ∀ b, op s.f b v = Alu.ofLogic s.f (g b)) : UpdatesReg i s k g n := by
  refine ⟨_, hi.trans (regBin_next op k v n s), ?_⟩
  rw [hop]
  exact ⟨regStored_of_put rfl rfl, flagsZ_ofLogic s.f _, rfl⟩

end

/-- The four forms that `AND`, `OR` and `XOR` share: A and an immediate, A and a RAM byte, a RAM byte and A, a RAM byte and
an immediate. `r` is the result as a function of both operands. -/
theorem logicForms_write {op : BinOp} {s : State} {k v : Byte} {aImm aDir dirA dirImm : Instr} {r : Byte → Byte → Byte}
    (hop : ∀ a b, op s.f a b = Alu.ofLogic s.f (r a b))
    (haImm : exec aImm s = accImm op v s) (haDir : exec aDir s = accRam op k s)
    (hdirA : exec dirA s = ramBin op k s.a 2 s) (hdirImm : exec dirImm s = ramBin op k v 3 s) :
    let m := curByte s k
    WritesAZ aImm s (r s.a v) 2 ∧
    (CurOk s k →
      WritesAZ aDir s (r s.a m) 2 ∧ WritesRamZ dirA s k (r m s.a) 2 ∧ WritesRamZ dirImm s k (r m v) 3) :=
  ⟨writesAZ_of_accImm haImm (hop _ _), fun hok =>
    ⟨writesAZ_of_accRam haDir hok (hop _ _), writesRamZ_of_ramBin hdirA hok (hop _ _),
      writesRamZ_of_ramBin hdirImm hok (hop _ _)⟩⟩

/-- `TST reg` reads the location once, with what the read changes, and stores nothing (41_logical.md R262, R286). -/
theorem testReg_eq_next_regRd (op : TestOp) (ea v : Byte) (s : State) :
    testReg op ea v s = .next { (regRd s ea).2 with f := op s.f (regRd s ea).1 v, pc := s.pc + 3 } := by
  have hpc : (regRd s ea).2.pc = s.pc := by rw [regRd_state]
  rw [← hpc]
  rfl

/-- All eight bits of F are stored, the undefined ones that are now 1 are remembered (41_logical.md R261, D10). -/
theorem flagsImm_next (op : Byte → Byte → Byte) (k : Byte) (s : State) :
    flagsImm op k s =
      .next { s with f := op s.f k, spare := s.spare ||| (op s.f k &&& undefinedBits), pc := s.pc + 2 } := rfl

/-! The obligations. -/

/-- Settles O30. -/
theorem andResults : Obligations.AndResults :=
  ⟨fun _ _ _ => ⟨rowSays_encode _, rowSays_encode _, rowSays_encode _, rowSays_encode _⟩,
    fun _ _ _ => logicForms_write (op := Alu.and) (fun _ _ => rfl) rfl rfl rfl rfl⟩

/-- Settles O31. -/
theorem orResults : Obligations.OrResults :=
  ⟨fun _ _ _ => ⟨rowSays_encode _, rowSays_encode _, rowSays_encode _, rowSays_encode _⟩,
    fun _ _ _ => logicForms_write (op := Alu.or) (fun _ _ => rfl) rfl rfl rfl rfl⟩

/-- Settles O32. -/
theorem xorResults : Obligations.XorResults :=
  ⟨fun _ _ _ => ⟨rowSays_encode _, rowSays_encode _, rowSays_encode _, rowSays_encode _⟩,
    fun _ _ _ => logicForms_write (op := Alu.xor) (fun _ _ => rfl) rfl rfl rfl rfl⟩

/-- Settles O38: `AND`, `OR` and `XOR` are the read-and-write form, `TST` the reading one. -/
theorem registerLogicResults : Obligations.RegisterLogicResults := by
  refine ⟨fun _ _ => ⟨rowSays_encode _, rowSays_encode _, rowSays_encode _, rowSays_encode _⟩,
    fun s k v => ⟨?_, ?_, ?_, ?_⟩⟩
  · exact updatesReg_of_regBin (op := Alu.and) rfl fun _ => rfl
  · exact updatesReg_of_regBin (op := Alu.or) rfl fun _ => rfl
  · exact updatesReg_of_regBin (op := Alu.xor) rfl fun _ => rfl
  · exact ⟨_, flagsZ_setFlagZ s.f _, testReg_eq_next_regRd Alu.tst k v s⟩

/-- Settles O33. -/
theorem flagRegisterResults : Obligations.FlagRegisterResults := fun s k =>
  ⟨rowSays_encode _, rowSays_encode _, rowSays_encode _,
    flagsImm_next (· &&& ·) k s, flagsImm_next (· ||| ·) k s, flagsImm_next (· ^^^ ·) k s⟩

/-- Settles O34. -/
theorem tstCplResults : Obligations.TstCplResults := fun s _ _ =>
  ⟨rowSays_encode _, rowSays_encode _, writesAZ_of_unA (op := Alu.cpl) rfl rfl,
    fun hok => writesZ_of_testRam (op := Alu.tst) rfl hok (flagsZ_setFlagZ s.f _)⟩

end Sys2Proof.Machine

/-! PROOFS. The shifts and rotations of A and of a RAM byte: results, C and Z. -/

namespace Sys2Proof.Machine

/-! One bit in, one bit out. The model writes a result as the concatenation of the seven bits that stay with the bit that
enters (42_shift_rotate.md R323 to R326); the statements write the shift of the whole byte. -/

/-- Seven bits move up and the bit `c` enters at bit 0. -/
theorem extractLsb'_append_ofBool (a : Byte) (c : Bool) :
    (a.extractLsb' 0 7 ++ BitVec.ofBool c : Byte) = a <<< 1 ||| (if c then 0x01 else 0x00) :=
  calc (a.extractLsb' 0 7 ++ BitVec.ofBool c : Byte)
    _ = (a.extractLsb' 0 7 ++ 0#1 : Byte) ||| (0#7 ++ BitVec.ofBool c : Byte) := by
      rw [BitVec.or_append, BitVec.or_zero, BitVec.zero_or]
    _ = a <<< 1 ||| (if c then 0x01 else 0x00) := by
      rw [BitVec.shiftLeft_eq_concat_of_lt (x := a) (n := 1) (by decide)]
      cases c <;> rfl

/-- Seven bits move down and the bit `c` enters at bit 7. -/
theorem ofBool_append_extractLsb' (a : Byte) (c : Bool) :
    (BitVec.ofBool c ++ a.extractLsb' 1 7 : Byte) = a >>> 1 ||| (if c then 0x80 else 0x00) :=
  calc (BitVec.ofBool c ++ a.extractLsb' 1 7 : Byte)
    _ = (0#1 ++ a.extractLsb' 1 7 : Byte) ||| (BitVec.ofBool c ++ 0#7 : Byte) := by
      rw [BitVec.or_append, BitVec.zero_or, BitVec.or_zero]
    _ = a >>> 1 ||| (if c then 0x80 else 0x00) := by
      rw [BitVec.ushiftRight_eq_extractLsb'_of_lt (x := a) (n := 1) (by decide)]
      cases c <;> rfl

/-- With bit 7 entering again at bit 7, seven bits moved down are the arithmetic shift. -/
theorem extractLsb'_append_eq_sshiftRight (a : Byte) :
    (a.extractLsb' 7 1 ++ a.extractLsb' 1 7 : Byte) = a.sshiftRight 1 := by
  ext i hi
  rw [BitVec.getElem_append, BitVec.getElem_sshiftRight]
  by_cases hlow : i < 7
  · simp [hlow, show 1 + i < 8 by omega]
  · obtain rfl : i = 7 := by omega
    simp [BitVec.msb_eq_getLsbD_last]

/-- The bit a rotation takes from F is F.C. -/
theorem extractLsb'_eq_ofBool_flagC (f : Byte) : f.extractLsb' 2 1 = BitVec.ofBool (flagC f) := by
  ext i hi
  obtain rfl : i = 0 := by omega
  simp [flagC]

/-! The operations. -/

/-- C and Z are set from the bit moved out and from the stored byte (42_shift_rotate.md R310). -/
theorem answersCZ_setFlagsCZ {r r' : Byte} (f : Byte) (c : Bool) (h : r = r') :
    AnswersCZ f (r, setFlagsCZ f c r) r' (c = true) (r' = 0) :=
  ⟨h, h ▸ flagsCZ_setFlagsCZ f c r⟩

theorem asl_answersCZ (f a : Byte) : AnswersCZ f (Alu.asl f a) (a <<< 1) (a.getLsbD 7 = true) (a <<< 1 = 0) :=
  answersCZ_setFlagsCZ f _ (BitVec.shiftLeft_eq_concat_of_lt (x := a) (n := 1) (by decide)).symm

theorem asr_answersCZ (f a : Byte) :
    AnswersCZ f (Alu.asr f a) (a.sshiftRight 1) (a.getLsbD 0 = true) (a.sshiftRight 1 = 0) :=
  answersCZ_setFlagsCZ f _ (extractLsb'_append_eq_sshiftRight a)

/-- The byte `RLC` stores: the old C enters at bit 0. -/
def rotatedLeft (f a : Byte) : Byte := (a <<< 1) ||| (if flagC f then 0x01 else 0x00)

/-- The byte `RRC` stores: the old C enters at bit 7. -/
def rotatedRight (f a : Byte) : Byte := (a >>> 1) ||| (if flagC f then 0x80 else 0x00)

theorem rlc_answersCZ (f a : Byte) :
    AnswersCZ f (Alu.rlc f a) (rotatedLeft f a) (a.getLsbD 7 = true) (rotatedLeft f a = 0) :=
  answersCZ_setFlagsCZ f _ (by rw [extractLsb'_eq_ofBool_flagC, extractLsb'_append_ofBool, rotatedLeft])

theorem rrc_answersCZ (f a : Byte) :
    AnswersCZ f (Alu.rrc f a) (rotatedRight f a) (a.getLsbD 0 = true) (rotatedRight f a = 0) :=
  answersCZ_setFlagsCZ f _ (by rw [extractLsb'_eq_ofBool_flagC, ofBool_append_extractLsb', rotatedRight])

/-- The forms that a left and a right operation share: A, and a RAM byte. `l` and `r` are the two results, `cl` and `cr` the
conditions for C, as functions of the operand. -/
theorem unaryForms_write {opL opR : UnOp} {s : State} {k : Byte} {leftA rightA leftDir rightDir : Instr}
    {l r : Byte → Byte} {cl cr : Byte → Prop}
    (hl : ∀ a, AnswersCZ s.f (opL s.f a) (l a) (cl a) (l a = 0))
    (hr : ∀ a, AnswersCZ s.f (opR s.f a) (r a) (cr a) (r a = 0))
    (hleftA : exec leftA s = unA opL s) (hrightA : exec rightA s = unA opR s)
    (hleftDir : exec leftDir s = unRam opL k s) (hrightDir : exec rightDir s = unRam opR k s) :
    let m := curByte s k
    WritesA leftA s (l s.a) (cl s.a) (l s.a = 0) 1 ∧
    WritesA rightA s (r s.a) (cr s.a) (r s.a = 0) 1 ∧
    (CurOk s k →
      WritesRam leftDir s k (l m) (cl m) (l m = 0) 2 ∧ WritesRam rightDir s k (r m) (cr m) (r m = 0) 2) :=
  ⟨writesA_of_unA hleftA (hl _), writesA_of_unA hrightA (hr _), fun hok =>
    ⟨writesRam_of_unRam hleftDir hok (hl _), writesRam_of_unRam hrightDir hok (hr _)⟩⟩

/-! The obligations. -/

/-- Settles O35. -/
theorem shiftResults : Obligations.ShiftResults :=
  ⟨fun _ => ⟨rowSays_encode _, rowSays_encode _, rowSays_encode _, rowSays_encode _⟩,
    fun s _ => unaryForms_write (asl_answersCZ s.f) (asr_answersCZ s.f) rfl rfl rfl rfl⟩

/-- Settles O36. -/
theorem rotateResults : Obligations.RotateResults :=
  ⟨fun _ => ⟨rowSays_encode _, rowSays_encode _, rowSays_encode _, rowSays_encode _⟩,
    fun s _ => unaryForms_write (rlc_answersCZ s.f) (rrc_answersCZ s.f) rfl rfl rfl rfl⟩

end Sys2Proof.Machine

/-! PROOFS. Transfers of control: the targets of jumps, the word a call pushes, and the return to it. -/

namespace Sys2Proof.Machine

/-! Targets. The model adds words; the statements add integers and take the sum modulo 65536 (D6). -/

/-- A displacement extends its sign: it is added as the integer it stands for (30_encoding.md R134). -/
theorem relDisp_eq_ofInt (k : Disp) : relDisp k = BitVec.ofInt 16 k.toInt := rfl

/-- A word plus an offset plus a signed displacement, as the sum of integers that the rules write. -/
theorem add_add_relDisp_eq_ofInt (pc n : Word) (k : Disp) :
    pc + n + relDisp k = BitVec.ofInt 16 ((pc.toNat : Int) + n.toNat + k.toInt) := by
  simp only [relDisp_eq_ofInt, BitVec.ofInt_add, BitVec.ofInt_natCast, BitVec.ofNat_toNat, BitVec.setWidth_eq]

/-- The target of the short jumps (43_control_transfer.md R330). -/
theorem jumpTarget_eq_ofInt (s : State) (k : Disp) :
    jumpTarget s k = BitVec.ofInt 16 ((s.pc.toNat : Int) + 1 + k.toInt) := add_add_relDisp_eq_ofInt s.pc 1 k

/-- The target of `JACC`: A is added as an unsigned byte (43_control_transfer.md R333, D14). -/
theorem jumpTarget_add_eq_ofInt (s : State) (k : Disp) (a : Byte) :
    jumpTarget s k + a.setWidth 16 = BitVec.ofInt 16 ((s.pc.toNat : Int) + 1 + k.toInt + a.toNat) := by
  rw [jumpTarget_eq_ofInt, BitVec.ofInt_add _ (a.toNat : Int), BitVec.ofInt_natCast, BitVec.ofNat_toNat]

/-- A jump whose condition is that a flag is clear. -/
theorem jumpIf_not_next (c : Bool) (k : Disp) (s : State) :
    jumpIf (!c) k s = .next { s with pc := if c = false then jumpTarget s k else s.pc + 2 } := by cases c <;> rfl

/-! Calls and returns. -/

theorem byte_add_one_add_one (b : Byte) : b + 1 + 1 = b + 2 := by bv_omega

theorem stackKey_inj {s : State} {a b : Byte} : stackKey s a = stackKey s b ↔ a = b := by
  simp [stackKey, BitVec.toNat_inj]

/-- The stack page is a parameter of the device, so two states of one device have the same keys for it. -/
theorem stackByte_of_profile_eq {s t : State} (h : t.profile = s.profile) (addr : Byte) :
    stackByte t addr = ramByte t (stackKey s addr) := by rw [stackByte, stackKey, stackPage_congr h, stackKey]

/-- The RAM bytes after a 16-bit push: two written, all others as before (20_memory.md R82). -/
theorem ramByte_pushWord {s t : State} {w : Word} (h : pushWord s w = .ok t) (j : Nat) :
    ramByte t j =
      if j = stackKey s (s.sp + 1) then w.extractLsb' 0 8
      else if j = stackKey s s.sp then w.extractLsb' 8 8
      else ramByte s j := by
  obtain ⟨-, -, rfl⟩ := pushWord_eq_ok.1 h
  rw [← ramByte_put s (stackKey s s.sp) (w.extractLsb' 8 8) j]
  exact ramByte_put { s with ram := Memory.put none s.ram (stackKey s s.sp) (w.extractLsb' 8 8) } _ _ j

/-- A 16-bit push in the terms of claims: the bytes differ in their addresses, so the second leaves the first alone. -/
theorem pushWord_wordPushed {s t : State} {w : Word} (h : pushWord s w = .ok t) : WordPushed s t w := by
  have hprofile : t.profile = s.profile := (pushWord_evolves h).profile
  have hkey : stackKey s s.sp ≠ stackKey s (s.sp + 1) := stackKey_inj.not.2 (by bv_omega)
  refine ⟨?_, ?_, fun j hhi hlo => ?_⟩
  · rw [stackByte_of_profile_eq hprofile, ramByte_pushWord h, if_neg hkey, if_pos rfl]
  · rw [stackByte_of_profile_eq hprofile, ramByte_pushWord h, if_pos rfl]
  · rw [ramByte_pushWord h, if_neg hlo, if_neg hhi]

/-- What a call that completes did: two implemented bytes pushed, SP two higher, PC the target (43_control_transfer.md
R331). -/
theorem callTo_pushes {s t : State} {ret target : Word} (h : callTo ret target s = .next t) :
    StackOk s s.sp ∧ StackOk s (s.sp + 1) ∧ WordPushed s t ret ∧
      t = { s with ram := t.ram, sp := s.sp + 2, pc := target } := by
  obtain ⟨u, hpush, rfl⟩ := callTo_eq_next.1 h
  obtain ⟨hhi, hlo, hu⟩ := pushWord_eq_ok.1 hpush
  rw [byte_add_one_add_one] at hu
  have hpushed : WordPushed s u ret := pushWord_wordPushed hpush
  refine ⟨hhi, hlo, hpushed, ?_⟩
  rw [hu]
  rfl

/-- A call whose two stack bytes are implemented, in the terms of claims. -/
theorem callTo_result {i : Instr} {s : State} {ret target : Word} (hi : exec i s = callTo ret target s)
    (hhi : StackOk s s.sp) (hlo : StackOk s (s.sp + 1)) :
    ∃ t, exec i s = .next t ∧ WordPushed s t ret ∧ t = { s with ram := t.ram, sp := s.sp + 2, pc := target } := by
  obtain ⟨t, ht⟩ := callTo_completes ret target hhi hlo
  obtain ⟨-, -, hpushed, hframe⟩ := callTo_pushes ht
  exact ⟨t, hi.trans ht, hpushed, hframe⟩

/-- A call pushes the address of the instruction after it: `CALL` is two bytes long, `LCALL` three (R332, R339, D1). -/
theorem exec_call_eq_callTo {i : Instr} (hi : (∃ k, i = .call k) ∨ (∃ w, i = .lcall w)) (s : State) :
    ∃ target, exec i s = callTo (s.pc + BitVec.ofNat 16 i.length) target s := by
  rcases hi with ⟨k, rfl⟩ | ⟨w, rfl⟩
  · exact ⟨_, rfl⟩
  · exact ⟨_, rfl⟩

/-- `RET` where its two stack bytes are implemented (43_control_transfer.md R341). -/
theorem execRet_next {s : State} (hlo : StackOk s (s.sp - 1)) (hhi : StackOk s (s.sp - 2)) :
    execRet s = .next { s with sp := s.sp - 2, pc := stackByte s (s.sp - 2) ++ stackByte s (s.sp - 1) } := by
  rw [← byte_sub_one_sub_one] at hhi ⊢
  exact execRet_eq_next.2 ⟨hlo, hhi, rfl⟩

/-- `RET` takes back the word that a call pushed: SP is as before the call and PC is that word. -/
theorem execRet_of_call {s t : State} {ret target : Word} (h : callTo ret target s = .next t) :
    execRet t = .next { t with sp := s.sp, pc := ret } := by
  obtain ⟨hhi, hlo, ⟨hhiByte, hloByte, -⟩, ht⟩ := callTo_pushes h
  have hsp : t.sp = s.sp + 2 := by rw [ht]
  have hsp1 : t.sp - 1 = s.sp + 1 := by rw [hsp]; bv_omega
  have hsp2 : t.sp - 2 = s.sp := by rw [hsp]; bv_omega
  have hok : ∀ addr, StackOk t addr = StackOk s addr := fun addr => by rw [ht]; rfl
  rw [execRet_next (by rwa [hsp1, hok]) (by rwa [hsp2, hok]), hsp1, hsp2, hhiByte, hloByte, longOperand_encodeLong]

/-! The obligations. -/

/-- Settles O48: each jump is `jumpIf` of its condition. -/
theorem relativeJumpResults : Obligations.RelativeJumpResults := by
  intro s k
  rw [← jumpTarget_eq_ofInt s k]
  exact ⟨rowSays_encode _, rowSays_encode _, rowSays_encode _, rowSays_encode _, rowSays_encode _, rfl,
    jumpIf_next _ k s, jumpIf_not_next _ k s, jumpIf_next _ k s, jumpIf_not_next _ k s⟩

/-- Settles O51. -/
theorem callResults : Obligations.CallResults := by
  refine fun s k w => ⟨rowSays_encode _, rowSays_encode _, fun hhi hlo => ⟨?_, callTo_result rfl hhi hlo⟩⟩
  have htarget := add_add_relDisp_eq_ofInt s.pc 2 k
  exact callTo_result (congrArg (callTo (s.pc + 2) · s) htarget) hhi hlo

/-- Settles O52: `RET` pops the address after the call, whichever of the two calls pushed it. -/
theorem returnFromCall : Obligations.ReturnFromCall := by
  intro i s t hi h
  obtain ⟨target, hcall⟩ := exec_call_eq_callTo hi s
  rw [hcall] at h
  obtain ⟨-, -, ⟨-, -, hothers⟩, ht⟩ := callTo_pushes h
  exact ⟨_, execRet_of_call h,
    congrArg (fun u : State => { u with sp := s.sp, pc := s.pc + BitVec.ofNat 16 i.length }) ht, hothers⟩

/-- Settles O49. -/
theorem computedJumpResult : Obligations.ComputedJumpResult := by
  refine fun s k => ⟨rowSays_encode _, ?_⟩
  rw [← jumpTarget_add_eq_ofInt]
  rfl

/-- Settles O50. -/
theorem longJumpReturnNopResults : Obligations.LongJumpReturnNopResults := fun _ _ =>
  ⟨rowSays_encode _, rowSays_encode _, rowSays_encode _, rfl, rfl, execRet_next⟩

end Sys2Proof.Machine

/-! PROOFS. Data movement: loads, stores, the MVI pointer, the stack, exchanges and ROM tables. -/

namespace Sys2Proof.Machine

/-! The operand forms, for an instruction whose meaning is the form. -/

section
variable {i : Instr} {s t : State} {k v : Byte} {n addr : Word}

/-- Every load of A sets Z from the byte loaded (44_data_movement.md R360, D9). -/
theorem writesAZ_of_loadA (hi : exec i s = .next (loadA v n s)) : WritesAZ i s v n :=
  ⟨_, flagsZ_setFlagZ s.f v, hi⟩

theorem writesAZ_of_loadARam (hi : exec i s = loadARam k s) (hok : CurOk s k) : WritesAZ i s (curByte s k) 2 :=
  writesAZ_of_loadA (hi.trans (loadARam_eq_next.2 ⟨hok, rfl⟩))

theorem writesAZ_of_loadARom (hi : exec i s = loadARom addr n s) (hv : romRd s addr = .ok v) : WritesAZ i s v n :=
  writesAZ_of_loadA (hi.trans (loadARom_eq_next.2 ⟨v, hv, rfl⟩))

/-- A ROM byte that cannot be read stops the instruction (20_memory.md R95, D16). -/
theorem loadARom_of_error {r : Refusal} (h : romRd s addr = .error r) : loadARom addr n s = .refused r := by
  rw [loadARom, h]

/-- `MOV A, reg` reads the location once, with what the read changes, and stores nothing (44_data_movement.md R376). -/
theorem loadAReg_eq_next_regRd (ea : Byte) (s : State) :
    loadAReg ea s =
      .next { (regRd s ea).2 with a := (regRd s ea).1, f := setFlagZ s.f (regRd s ea).1, pc := s.pc + 2 } := by
  rw [loadAReg_next, regRd_state s ea]

/-- A state whose RAM is the old one with one byte written, whatever else changed but the epoch. -/
theorem ramStored_of_put {key : Nat} (hram : t.ram = Memory.put none s.ram key v) (hepoch : t.epoch = s.epoch) :
    RamStored s t key v := fun j =>
  (ramByte_congr (s := { s with ram := Memory.put none s.ram key v }) hram hepoch j).trans (ramByte_put s key v j)

theorem storesRam_of_storeRam (hi : exec i s = storeRam k v n s) (hok : CurOk s k) : StoresRam i s k v n :=
  ⟨_, hi.trans (storeRam_eq_next.2 ⟨hok, rfl⟩), ramStored_of_put rfl rfl, rfl⟩

theorem storesReg_of_storeReg (hi : exec i s = storeReg k v n s) : StoresReg i s k v n :=
  ⟨_, hi.trans (storeReg_next k v n s), regStored_of_put rfl rfl, rfl⟩

end

/-- A byte written and then another: where both writes are to one key, the later one stays. -/
theorem ramByte_put_put (s : State) (key₁ key₂ : Nat) (v₁ v₂ : Byte) (j : Nat) :
    ramByte { s with ram := Memory.put none (Memory.put none s.ram key₁ v₁) key₂ v₂ } j =
      if j = key₂ then v₂ else if j = key₁ then v₁ else ramByte s j := by
  rw [← ramByte_put s key₁ v₁ j]
  exact ramByte_put { s with ram := Memory.put none s.ram key₁ v₁ } key₂ v₂ j

/-- The address `INDEX` reads: A is added as an unsigned byte, and the sum is taken modulo 65536 (44_data_movement.md R361,
D6, D14). -/
theorem exec_index_eq_loadARom (k : Disp) (s : State) :
    exec (.index k) s =
      loadARom (BitVec.ofInt 16 ((s.pc.toNat : Int) + 2 + k.toInt + s.a.toNat)) 2 s := by
  have haddr : s.pc + 2 + relDisp k + s.a.setWidth 16 =
      BitVec.ofInt 16 ((s.pc.toNat : Int) + 2 + k.toInt + s.a.toNat) := by
    rw [BitVec.ofInt_add _ (s.a.toNat : Int), BitVec.ofInt_natCast, BitVec.ofNat_toNat, add_add_relDisp_eq_ofInt]
    rfl
  exact congrArg (loadARom · 2 s) haddr

/-! The obligations. -/

/-- Settles O39. -/
theorem registerMoveResults : Obligations.RegisterMoveResults :=
  ⟨fun _ _ _ => ⟨rowSays_encode _, rowSays_encode _, rowSays_encode _⟩, fun s k _ =>
    ⟨storesReg_of_storeReg rfl, storesReg_of_storeReg rfl, _, flagsZ_setFlagZ s.f _, loadAReg_eq_next_regRd k s⟩⟩

/-- Settles O42. -/
theorem storeResults : Obligations.StoreResults := by
  refine ⟨fun _ _ _ => ⟨rowSays_encode _, rowSays_encode _, rowSays_encode _, rowSays_encode _⟩,
    fun s k v hok => ⟨?_, ?_, ?_, fun hsrc => ?_⟩⟩
  · exact storesRam_of_storeRam rfl hok
  · exact storesRam_of_storeRam rfl hok
  · exact storesRam_of_storeRam rfl hok
  · exact ⟨_, execMovDirDir_eq_next.2 ⟨hsrc, hok, rfl⟩, ramStored_of_put rfl rfl, rfl⟩

/-- Settles O43. -/
theorem mviReadResult : Obligations.MviReadResult := fun s _ =>
  ⟨rowSays_encode _, fun hptr hdata =>
    ⟨_, execMviRead_eq_next.2 ⟨hptr, hdata, rfl⟩, rfl, flagsZ_setFlagZ s.f _, ramStored_of_put rfl rfl, rfl⟩⟩

/-- Settles O44: the pointer byte is written last, so a pointer that names itself ends as the pointer plus 1 (D22). -/
theorem mviWriteResult : Obligations.MviWriteResult := fun s _ =>
  ⟨rowSays_encode _, fun hptr hdata =>
    ⟨_, execMviWrite_eq_next.2 ⟨hptr, hdata, rfl⟩, ramByte_put_put s _ _ _ _, rfl⟩⟩

/-- Settles O45. -/
theorem stackMoveResults : Obligations.StackMoveResults := by
  refine ⟨⟨rowSays_encode _, rowSays_encode _, rowSays_encode _, rowSays_encode _⟩,
    fun s => ⟨fun hok => ⟨?_, ?_⟩, fun hok => ⟨?_, ?_⟩⟩⟩
  · exact ⟨_, execPushA_eq_next.2 ⟨hok, rfl⟩, ramStored_of_put rfl rfl, rfl⟩
  · exact ⟨_, execPushX_eq_next.2 ⟨hok, rfl⟩, ramStored_of_put rfl rfl, rfl⟩
  · exact ⟨_, flagsZ_setFlagZ s.f _, execPopA_eq_next.2 ⟨hok, rfl⟩⟩
  · exact execPopX_eq_next.2 ⟨hok, rfl⟩

/-- Settles O46. -/
theorem swapResults : Obligations.SwapResults := by
  refine ⟨fun _ => ⟨rowSays_encode _, rowSays_encode _, rowSays_encode _, rowSays_encode _⟩,
    fun s k => ⟨?_, ?_, fun hok => ⟨?_, ?_⟩⟩⟩
  · exact ⟨_, flagsZ_setFlagZ s.f s.x, rfl⟩
  · exact ⟨_, flagsZ_setFlagZ s.f s.sp, rfl⟩
  · exact ⟨_, execSwapADir_eq_next.2 ⟨hok, rfl⟩, ramStored_of_put rfl rfl, flagsZ_setFlagZ s.f _, rfl⟩
  · exact ⟨_, execSwapXDir_eq_next.2 ⟨hok, rfl⟩, ramStored_of_put rfl rfl, rfl⟩

/-- Settles O47: both instructions load A from ROM, from the address each computes. -/
theorem tableReadResults : Obligations.TableReadResults := by
  refine fun s k => ⟨rowSays_encode _, rowSays_encode _, fun v hv => ?_, fun v hv => ?_, fun r hr => ?_, fun r hr => ?_⟩
  · exact writesAZ_of_loadARom rfl hv
  · exact writesAZ_of_loadARom (exec_index_eq_loadARom k s) hv
  · exact loadARom_of_error hr
  · exact (exec_index_eq_loadARom k s).trans (loadARom_of_error hr)

/-- Settles O40. -/
theorem loadAccumulatorResults : Obligations.LoadAccumulatorResults :=
  ⟨fun _ => ⟨rowSays_encode _, rowSays_encode _, rowSays_encode _⟩, fun _ _ =>
    ⟨writesAZ_of_loadA rfl, writesAZ_of_loadA rfl, fun hok => writesAZ_of_loadARam rfl hok⟩⟩

/-- Settles O41. -/
theorem loadIndexResults : Obligations.LoadIndexResults :=
  ⟨fun _ => ⟨rowSays_encode _, rowSays_encode _, rowSays_encode _, rowSays_encode _⟩, fun _ _ =>
    ⟨rfl, rfl, rfl, fun hok => loadXRam_eq_next.2 ⟨hok, rfl⟩⟩⟩

end Sys2Proof.Machine

/-! PROOFS. The system instructions: HALT and the halted core, RETI, and the supervisor call. -/

namespace Sys2Proof.Machine

/-! The halted core. -/

theorem step_of_halted {s : State} (h : s.halted = true) : step s = .fault .halted := if_pos h

theorem stepCycles_of_halted {s : State} (h : s.halted = true) : stepCycles s = none := if_pos h

/-- Settles O7: `halted` is looked at before F.GIE and the requests. -/
theorem haltedCoreIsStuck : Obligations.HaltedCoreIsStuck := fun _ h => ⟨step_of_halted h, stepCycles_of_halted h⟩

/-- Settles O55. -/
theorem haltResult : Obligations.HaltResult := fun s =>
  ⟨rowSays_encode _, _, execHalt_next s, regStored_of_put rfl rfl, rfl⟩

/-! Entry and return. -/

/-- Which stack bytes are implemented is the device's: two states of one device agree on it. -/
theorem stackOk_of_profile_eq {s t : State} (h : t.profile = s.profile) (addr : Byte) :
    StackOk t addr ↔ StackOk s addr := by rw [StackOk, StackOk, stackPage_congr h, h]

/-- The RAM bytes after an entry: the frame's three, all others as before (60_exceptions.md R446, 45_system.md R425). -/
theorem ramByte_enterHandler {s t : State} {ret target : Word} (h : enterHandler s ret target = .ok t) (j : Nat) :
    ramByte t j =
      if j = stackKey s (s.sp + 2) then (observeF s).1
      else if j = stackKey s (s.sp + 1) then ret.extractLsb' 0 8
      else if j = stackKey s s.sp then ret.extractLsb' 8 8
      else ramByte s j := by
  obtain ⟨-, -, -, rfl⟩ := enterHandler_eq_ok.1 h
  simp only [byte_add_one_add_one, ramByte, Memory.readD_put_none]
  rfl

/-- An entry in the terms of claims: the three bytes differ in their addresses, so no push overwrites another's. -/
theorem enterHandler_framePushed {s t : State} {ret target : Word} (h : enterHandler s ret target = .ok t) :
    FramePushed s t ret := by
  have hbyte : ∀ addr, stackByte t addr = ramByte t (stackKey s addr) :=
    stackByte_of_profile_eq (enterHandler_evolves h).profile
  have hhiLo : stackKey s s.sp ≠ stackKey s (s.sp + 1) := stackKey_inj.not.2 (by bv_omega)
  have hhiF : stackKey s s.sp ≠ stackKey s (s.sp + 2) := stackKey_inj.not.2 (by bv_omega)
  have hloF : stackKey s (s.sp + 1) ≠ stackKey s (s.sp + 2) := stackKey_inj.not.2 (by bv_omega)
  have hf : stackByte t (s.sp + 2) = (observeF s).1 := by rw [hbyte, ramByte_enterHandler h, if_pos rfl]
  refine ⟨?_, ?_, ?_, fun hdefined => ?_, fun j hhi hlo hflags => ?_⟩
  · rw [hbyte, ramByte_enterHandler h, if_neg hhiF, if_neg hhiLo, if_pos rfl]
  · rw [hbyte, ramByte_enterHandler h, if_neg hloF, if_pos rfl]
  · rw [hf]
    exact observeF_bits s
  · rw [hf, observeF_defined hdefined]
  · rw [ramByte_enterHandler h, if_neg hflags, if_neg hlo, if_neg hhi]

/-- An entry whose three stack bytes are implemented: the frame, F cleared, PC at the target (60_exceptions.md R444). -/
theorem enterHandler_result {s : State} (ret target : Word) (h : FrameOk s) :
    ∃ u, enterHandler s ret target = .ok u ∧ FramePushed s u ret ∧
      u = { s with ram := u.ram, sp := s.sp + 3, f := 0x00#8, pc := target, fresh := u.fresh } := by
  obtain ⟨hhi, hlo, hf⟩ := h
  rw [← byte_add_one_add_one] at hf
  have henter := (enterHandler_eq_ok (ret := ret) (target := target)).2 ⟨hhi, hlo, hf, rfl⟩
  have hsp : s.sp + 1 + 1 + 1 = s.sp + 3 := by bv_omega
  rw [hsp] at henter
  exact ⟨_, henter, enterHandler_framePushed henter, rfl⟩

/-- The return where its three stack bytes are implemented (45_system.md R423). -/
theorem returnFromInterrupt_of_stackOk {s : State} (hf : StackOk s (s.sp - 1)) (hlo : StackOk s (s.sp - 2))
    (hhi : StackOk s (s.sp - 3)) :
    returnFromInterrupt s = .ok { s with
      sp := s.sp - 3, f := stackByte s (s.sp - 1),
      spare := s.spare ||| (stackByte s (s.sp - 1) &&& undefinedBits),
      pc := stackByte s (s.sp - 3) ++ stackByte s (s.sp - 2) } := by
  rw [← byte_sub_one_sub_one_sub_one] at hhi ⊢
  rw [← byte_sub_one_sub_one] at hlo ⊢
  exact returnFromInterrupt_eq_ok.2 ⟨hf, hlo, hhi, rfl⟩

/-- Settles O53. -/
theorem returnFromInterruptResult : Obligations.ReturnFromInterruptResult := fun _ =>
  ⟨rowSays_encode _, fun hf hlo hhi => execReti_eq_next.2 (returnFromInterrupt_of_stackOk hf hlo hhi)⟩

/-! The supervisor call. -/

/-- Without a supplied routine the call is refused after its frame (45_system.md R426, D3). -/
theorem execSsc_of_no_srom {s u : State} (henter : enterHandler s (s.pc + 1) 0x0000#16 = .ok u)
    (hsrom : u.profile.srom = false) : execSsc s = .refused .noSromCall := by
  simp only [execSsc, henter, sromCall, hsrom, Bool.false_eq_true, if_false, ofExcept_error]

/-- The routine leaves SP alone, so its closing `RETI` pops the three bytes at the addresses of the frame, whatever the
routine made of them. -/
theorem returnFromInterrupt_of_frame {v : State} {sp : Byte} (hsp : v.sp = sp + 3) (hhi : StackOk v sp)
    (hlo : StackOk v (sp + 1)) (hf : StackOk v (sp + 2)) :
    returnFromInterrupt v = .ok { v with
      sp := sp, f := stackByte v (sp + 2), spare := v.spare ||| (stackByte v (sp + 2) &&& undefinedBits),
      pc := stackByte v sp ++ stackByte v (sp + 1) } := by
  have h1 : v.sp - 1 = sp + 2 := by rw [hsp]; bv_omega
  have h2 : v.sp - 2 = sp + 1 := by rw [hsp]; bv_omega
  have h3 : v.sp - 3 = sp := by rw [hsp]; bv_omega
  rw [returnFromInterrupt_of_stackOk (by rwa [h1]) (by rwa [h2]) (by rwa [h3]), h1, h2, h3]

/-- Settles O54: what the routine leaves alone, the frame and the return leave alone too. -/
theorem supervisorCallResult : Obligations.SupervisorCallResult := by
  refine fun s => ⟨rowSays_encode _, fun hframe => ?_⟩
  obtain ⟨u, henter, hpushed, hu⟩ := enterHandler_result (s.pc + 1) 0x0000#16 hframe
  have hprofile : u.profile = s.profile := (enterHandler_evolves henter).profile
  refine ⟨u, henter, hpushed, hu, fun hsrom => execSsc_of_no_srom henter (by rw [hprofile, hsrom]), fun hsrom => ?_⟩
  obtain ⟨hhi, hlo, hf⟩ := hframe
  have hsp : (applySrom u (sromEffect u)).sp = s.sp + 3 := congrArg State.sp hu
  have hok : ∀ addr, StackOk (applySrom u (sromEffect u)) addr ↔ StackOk s addr := stackOk_of_profile_eq hprofile
  have hreturn := returnFromInterrupt_of_frame hsp ((hok _).2 hhi) ((hok _).2 hlo) ((hok _).2 hf)
  have hhalted : u.halted = s.halted := by rw [hu]
  have hirqs : u.irqs = s.irqs := by rw [hu]
  have hwdt : u.wdt = s.wdt := by rw [hu]
  exact ⟨_, execSsc_eq_next.2 ⟨u, henter, by rw [hprofile, hsrom], hreturn⟩, rfl, rfl, rfl, rfl, rfl,
    hhalted, hirqs, hprofile, hwdt⟩

/-! Who sets `halted`. -/

theorem enterHandler_keeps_halted {s t : State} {ret target : Word} (h : enterHandler s ret target = .ok t) :
    t.halted = s.halted := by
  obtain ⟨-, -, -, rfl⟩ := enterHandler_eq_ok.1 h
  rfl

theorem returnFromInterrupt_keeps_halted {s t : State} (h : returnFromInterrupt s = .ok t) :
    t.halted = s.halted := by
  obtain ⟨-, -, -, rfl⟩ := returnFromInterrupt_eq_ok.1 h
  rfl

/-- The frame, the routine and its `RETI` all leave `halted` alone (notes/assumptions/9.md). -/
theorem execSsc_keeps_halted {s t : State} (h : execSsc s = .next t) : t.halted = s.halted := by
  obtain ⟨u, henter, -, hreturn⟩ := execSsc_eq_next.1 h
  calc t.halted
    _ = (applySrom u (sromEffect u)).halted := returnFromInterrupt_keeps_halted hreturn
    _ = u.halted := rfl
    _ = s.halted := enterHandler_keeps_halted henter

theorem callTo_keeps_halted {s t : State} {ret target : Word} (h : callTo ret target s = .next t) :
    t.halted = s.halted := by
  obtain ⟨-, -, -, ht⟩ := callTo_pushes h
  rw [ht]

theorem execHalt_halts {s t : State} (h : execHalt s = .next t) : t.halted = true := by
  obtain rfl := Host.Outcome.next.inj ((execHalt_next s).symm.trans h)
  rfl

/-- No instruction but `HALT` writes `halted` (45_system.md R420, D13). The cases are the operand forms. -/
theorem exec_keeps_halted {i : Instr} {s t : State} (hhalt : i ≠ .halt) (h : exec i s = .next t) :
    t.halted = s.halted := by
  cases i with
  | halt => exact absurd rfl hhalt
  -- Nothing but the core's registers, the immediate operand and F.
  | addAImm | adcAImm | subAImm | sbbAImm | andAImm | orAImm | xorAImm | cmpAImm | andF | orF | xorF
  | aslA | asrA | rlcA | rrcA | cplA | incA | decA | incX | decX
  | movAImm | movXImm | movAX | movXA | movXSp | swapAX | swapASp | addSp | nop | jmp | ljmp | jacc =>
    obtain rfl := Host.Outcome.next.inj h
    rfl
  | jz | jnz | jc | jnc =>
    obtain rfl := Host.Outcome.next.inj ((jumpIf_next _ _ s).symm.trans h)
    rfl
  -- The register space.
  | andReg | andRegIdx | orReg | orRegIdx | xorReg | xorRegIdx =>
    obtain rfl := Host.Outcome.next.inj ((regBin_next _ _ _ _ s).symm.trans h)
    rfl
  | tstReg | tstRegIdx =>
    obtain rfl := Host.Outcome.next.inj ((testReg_next _ _ _ s).symm.trans h)
    rfl
  | movAReg | movARegIdx =>
    obtain rfl := Host.Outcome.next.inj ((loadAReg_next _ s).symm.trans h)
    rfl
  | movRegA | movRegIdxA | movRegImm | movRegIdxImm =>
    obtain rfl := Host.Outcome.next.inj ((storeReg_next _ _ _ s).symm.trans h)
    rfl
  -- RAM and ROM.
  | addADir | addAIdx | adcADir | adcAIdx | subADir | subAIdx | sbbADir | sbbAIdx
  | andADir | andAIdx | orADir | orAIdx | xorADir | xorAIdx =>
    obtain ⟨-, rfl⟩ := accRam_eq_next.1 h
    rfl
  | addDirA | addIdxA | addDirImm | addIdxImm | adcDirA | adcIdxA | adcDirImm | adcIdxImm
  | subDirA | subIdxA | subDirImm | subIdxImm | sbbDirA | sbbIdxA | sbbDirImm | sbbIdxImm
  | andDirA | andIdxA | andDirImm | andIdxImm | orDirA | orIdxA | orDirImm | orIdxImm
  | xorDirA | xorIdxA | xorDirImm | xorIdxImm =>
    obtain ⟨-, rfl⟩ := ramBin_eq_next.1 h
    rfl
  | aslDir | aslIdx | asrDir | asrIdx | rlcDir | rlcIdx | rrcDir | rrcIdx
  | incDir | incIdx | decDir | decIdx =>
    obtain ⟨-, rfl⟩ := unRam_eq_next.1 h
    rfl
  | cmpADir | cmpAIdx =>
    obtain ⟨-, rfl⟩ := testAccRam_eq_next.1 h
    rfl
  | cmpDirImm | cmpIdxImm | tstDir | tstIdx =>
    obtain ⟨-, rfl⟩ := testRam_eq_next.1 h
    rfl
  | movADir | movAIdx =>
    obtain ⟨-, rfl⟩ := loadARam_eq_next.1 h
    rfl
  | movXDir | movXIdx =>
    obtain ⟨-, rfl⟩ := loadXRam_eq_next.1 h
    rfl
  | movDirA | movIdxA | movDirImm | movIdxImm | movDirX =>
    obtain ⟨-, rfl⟩ := storeRam_eq_next.1 h
    rfl
  | swapADir =>
    obtain ⟨-, rfl⟩ := execSwapADir_eq_next.1 h
    rfl
  | swapXDir =>
    obtain ⟨-, rfl⟩ := execSwapXDir_eq_next.1 h
    rfl
  | movDirDir =>
    obtain ⟨-, -, rfl⟩ := execMovDirDir_eq_next.1 h
    rfl
  | mviRead =>
    obtain ⟨-, -, rfl⟩ := execMviRead_eq_next.1 h
    rfl
  | mviWrite =>
    obtain ⟨-, -, rfl⟩ := execMviWrite_eq_next.1 h
    rfl
  | romx | index =>
    obtain ⟨_, -, rfl⟩ := loadARom_eq_next.1 h
    rfl
  -- The stack.
  | pushA =>
    obtain ⟨-, rfl⟩ := execPushA_eq_next.1 h
    rfl
  | pushX =>
    obtain ⟨-, rfl⟩ := execPushX_eq_next.1 h
    rfl
  | popA =>
    obtain ⟨-, rfl⟩ := execPopA_eq_next.1 h
    rfl
  | popX =>
    obtain ⟨-, rfl⟩ := execPopX_eq_next.1 h
    rfl
  | call | lcall => exact callTo_keeps_halted h
  | ret =>
    obtain ⟨-, -, rfl⟩ := execRet_eq_next.1 h
    rfl
  | reti => exact returnFromInterrupt_keeps_halted (execReti_eq_next.1 h)
  | ssc => exact execSsc_keeps_halted h

/-- Settles O16: `HALT` sets `halted`, every other instruction leaves it as it was. -/
theorem onlyHaltHalts : Obligations.OnlyHaltHalts := by
  intro i s t h
  by_cases hhalt : i = .halt
  · subst hhalt
    simp [execHalt_halts h]
  · simp [exec_keeps_halted hhalt h, hhalt]

end Sys2Proof.Machine

/-! PROOFS. Where an instruction is refused: at the first unimplemented RAM byte it accesses, at a ROM byte it cannot read,
and at a supervisor call without a routine. -/

namespace Sys2Proof.Machine

/-! Refusal at the first unimplemented RAM byte (20_memory.md R96, D16). -/

/-- Of the RAM bytes `cs`, accessed in that order, the first that device `p` does not implement is the reason `out` stops
for. `stop` is how an outcome stops: that of a step, or that of an operation inside one. -/
def StopsAtFirstBad {α : Type} (p : Profile) (stop : Refusal → α) (cs : List (Nat × Byte)) (out : α) : Prop :=
  ∀ c, firstBad p cs = some c → out = stop (.ramUnimplemented c.1 c.2)

section
variable {α : Type} {p : Profile} {stop : Refusal → α} {out : α} {page : Nat} {addr : Byte} {cs : List (Nat × Byte)}

theorem firstBad_cons_of_not_ok (h : ramOk p page addr = false) :
    firstBad p ((page, addr) :: cs) = some (page, addr) := List.find?_cons_of_pos (by simp [h])

theorem firstBad_cons_of_ok (h : ramOk p page addr = true) : firstBad p ((page, addr) :: cs) = firstBad p cs :=
  List.find?_cons_of_neg (by simp [h])

theorem firstBad_eq_none : firstBad p cs = none ↔ ∀ c ∈ cs, ramOk p c.1 c.2 = true := by simp [firstBad]

theorem stopsAtFirstBad_nil : StopsAtFirstBad p stop [] out := fun _ h => nomatch h

/-- The first access stops `out` where it is to an unimplemented byte; where it is not, the later ones decide. -/
theorem stopsAtFirstBad_cons (hbad : ramOk p page addr = false → out = stop (.ramUnimplemented page addr))
    (hok : ramOk p page addr = true → StopsAtFirstBad p stop cs out) :
    StopsAtFirstBad p stop ((page, addr) :: cs) out := by
  intro c hc
  cases h : ramOk p page addr with
  | false =>
    obtain rfl : (page, addr) = c := Option.some.inj ((firstBad_cons_of_not_ok h).symm.trans hc)
    exact hbad h
  | true => exact hok h c ((firstBad_cons_of_ok h).symm.trans hc)

theorem stopsAtFirstBad_singleton (hbad : ramOk p page addr = false → out = stop (.ramUnimplemented page addr)) :
    StopsAtFirstBad p stop [(page, addr)] out :=
  stopsAtFirstBad_cons hbad fun _ => stopsAtFirstBad_nil

end

/-! The operand forms: an access to an unimplemented byte ends the instruction. -/

section
variable {s : State} {ea v : Byte}

theorem ramRd_of_not_ok (h : ramOk s.profile (curPage s) ea = false) :
    ramRd s ea = .error (.ramUnimplemented (curPage s) ea) := readRam_of_not_ok h

theorem ramWr_of_not_ok (h : ramOk s.profile (curPage s) ea = false) :
    ramWr s ea v = .error (.ramUnimplemented (curPage s) ea) := writeRam_of_not_ok v h

theorem accRam_stops (op : BinOp) (ea : Byte) (s : State) :
    StopsAtFirstBad s.profile .refused [(curPage s, ea)] (accRam op ea s) :=
  stopsAtFirstBad_singleton fun h => by rw [accRam, ramRd_of_not_ok h]

theorem ramBin_stops (op : BinOp) (ea v : Byte) (n : Word) (s : State) :
    StopsAtFirstBad s.profile .refused [(curPage s, ea)] (ramBin op ea v n s) :=
  stopsAtFirstBad_singleton fun h => by rw [ramBin, ramRd_of_not_ok h]

theorem unRam_stops (op : UnOp) (ea : Byte) (s : State) :
    StopsAtFirstBad s.profile .refused [(curPage s, ea)] (unRam op ea s) :=
  stopsAtFirstBad_singleton fun h => by rw [unRam, ramRd_of_not_ok h]

theorem testAccRam_stops (op : TestOp) (ea : Byte) (s : State) :
    StopsAtFirstBad s.profile .refused [(curPage s, ea)] (testAccRam op ea s) :=
  stopsAtFirstBad_singleton fun h => by rw [testAccRam, ramRd_of_not_ok h]

theorem testRam_stops (op : TestOp) (ea v : Byte) (s : State) :
    StopsAtFirstBad s.profile .refused [(curPage s, ea)] (testRam op ea v s) :=
  stopsAtFirstBad_singleton fun h => by rw [testRam, ramRd_of_not_ok h]

theorem loadARam_stops (ea : Byte) (s : State) :
    StopsAtFirstBad s.profile .refused [(curPage s, ea)] (loadARam ea s) :=
  stopsAtFirstBad_singleton fun h => by rw [loadARam, ramRd_of_not_ok h]

theorem loadXRam_stops (ea : Byte) (s : State) :
    StopsAtFirstBad s.profile .refused [(curPage s, ea)] (loadXRam ea s) :=
  stopsAtFirstBad_singleton fun h => by rw [loadXRam, ramRd_of_not_ok h]

theorem storeRam_stops (ea v : Byte) (n : Word) (s : State) :
    StopsAtFirstBad s.profile .refused [(curPage s, ea)] (storeRam ea v n s) :=
  stopsAtFirstBad_singleton fun h => by rw [storeRam, ramWr_of_not_ok h]

theorem execSwapADir_stops (k : Byte) (s : State) :
    StopsAtFirstBad s.profile .refused [(curPage s, k)] (execSwapADir k s) :=
  stopsAtFirstBad_singleton fun h => by rw [execSwapADir, eaDir, ramRd_of_not_ok h]

theorem execSwapXDir_stops (k : Byte) (s : State) :
    StopsAtFirstBad s.profile .refused [(curPage s, k)] (execSwapXDir k s) :=
  stopsAtFirstBad_singleton fun h => by rw [execSwapXDir, eaDir, ramRd_of_not_ok h]

/-- The source is read before the destination is written (44_data_movement.md R378). -/
theorem execMovDirDir_stops (k1 k2 : Byte) (s : State) :
    StopsAtFirstBad s.profile .refused [(curPage s, k2), (curPage s, k1)] (execMovDirDir k1 k2 s) :=
  stopsAtFirstBad_cons (fun h => by rw [execMovDirDir, eaDir, ramRd_of_not_ok h]) fun h => by
    rw [execMovDirDir, eaDir, ramRd_eq_ok.2 ⟨h, rfl⟩]
    exact storeRam_stops k1 _ 3 s

/-- The pointer is read before the byte it names (44_data_movement.md R392). -/
theorem execMviRead_stops (k : Byte) (s : State) :
    StopsAtFirstBad s.profile .refused [(curPage s, k), (mviReadPage s, curByte s k)] (execMviRead k s) :=
  stopsAtFirstBad_cons (fun h => by rw [execMviRead, ramRd_of_not_ok h]) fun h =>
    stopsAtFirstBad_singleton fun hdata => by
      have hptr : ramRd s k = .ok (curByte s k) := ramRd_eq_ok.2 ⟨h, rfl⟩
      simp only [execMviRead, hptr, readRam_of_not_ok hdata]

/-- The pointer is read before the byte it names is written (44_data_movement.md R393). -/
theorem execMviWrite_stops (k : Byte) (s : State) :
    StopsAtFirstBad s.profile .refused [(curPage s, k), (mviWritePage s, curByte s k)] (execMviWrite k s) :=
  stopsAtFirstBad_cons (fun h => by rw [execMviWrite, ramRd_of_not_ok h]) fun h =>
    stopsAtFirstBad_singleton fun hdata => by
      have hptr : ramRd s k = .ok (curByte s k) := ramRd_eq_ok.2 ⟨h, rfl⟩
      simp only [execMviWrite, hptr, writeRam_of_not_ok _ hdata]

end

/-! The stack. -/

theorem execPushA_stops (s : State) : StopsAtFirstBad s.profile .refused [(stackPage s, s.sp)] (execPushA s) :=
  stopsAtFirstBad_singleton fun h => by rw [execPushA, push_of_not_ok h]

theorem execPushX_stops (s : State) : StopsAtFirstBad s.profile .refused [(stackPage s, s.sp)] (execPushX s) :=
  stopsAtFirstBad_singleton fun h => by rw [execPushX, push_of_not_ok h]

theorem execPopA_stops (s : State) : StopsAtFirstBad s.profile .refused [(stackPage s, s.sp - 1)] (execPopA s) :=
  stopsAtFirstBad_singleton fun h => by rw [execPopA, pop_of_not_ok h]

theorem execPopX_stops (s : State) : StopsAtFirstBad s.profile .refused [(stackPage s, s.sp - 1)] (execPopX s) :=
  stopsAtFirstBad_singleton fun h => by rw [execPopX, pop_of_not_ok h]

theorem callTo_stops (ret target : Word) (s : State) :
    StopsAtFirstBad s.profile .refused [(stackPage s, s.sp), (stackPage s, s.sp + 1)] (callTo ret target s) :=
  stopsAtFirstBad_cons (fun hhi => by rw [callTo, pushWord_of_not_ok.1 hhi]) fun hhi =>
    stopsAtFirstBad_singleton fun hlo => by rw [callTo, pushWord_of_not_ok.2 hhi hlo]

theorem popWord_stops (s : State) :
    StopsAtFirstBad s.profile .error [(stackPage s, s.sp - 1), (stackPage s, s.sp - 2)] (popWord s) := by
  rw [← byte_sub_one_sub_one]
  exact stopsAtFirstBad_cons popWord_of_not_ok.1 fun hlo => stopsAtFirstBad_singleton (popWord_of_not_ok.2 hlo)

theorem execRet_stops (s : State) :
    StopsAtFirstBad s.profile .refused [(stackPage s, s.sp - 1), (stackPage s, s.sp - 2)] (execRet s) :=
  fun c hc => by rw [execRet, popWord_stops s c hc]

theorem byte_sub_one_sub_two (b : Byte) : b - 1 - 2 = b - 3 := by bv_omega

/-- F is popped before the two bytes of PC (45_system.md R423). -/
theorem returnFromInterrupt_stops (s : State) :
    StopsAtFirstBad s.profile .error [(stackPage s, s.sp - 1), (stackPage s, s.sp - 2), (stackPage s, s.sp - 3)]
      (returnFromInterrupt s) := by
  refine stopsAtFirstBad_cons (fun hf => by rw [returnFromInterrupt, pop_of_not_ok hf]) fun hf c hc => ?_
  rw [← byte_sub_one_sub_two, ← byte_sub_one_sub_one s.sp] at hc
  have hpopWord := popWord_stops { s with sp := s.sp - 1 } c hc
  simp only [returnFromInterrupt, pop_of_ok hf, hpopWord]

theorem execReti_stops (s : State) :
    StopsAtFirstBad s.profile .refused [(stackPage s, s.sp - 1), (stackPage s, s.sp - 2), (stackPage s, s.sp - 3)]
      (execReti s) :=
  fun c hc => by rw [execReti, returnFromInterrupt_stops s c hc, ofExcept_error]

theorem enterHandler_stops (ret target : Word) (s : State) :
    StopsAtFirstBad s.profile .error (frameAccesses s) (enterHandler s ret target) := by
  obtain ⟨hhi, hlo, hf⟩ := enterHandler_of_not_ok (s := s) (ret := ret) (target := target)
  rw [byte_add_one_add_one] at hf
  exact stopsAtFirstBad_cons hhi fun h1 => stopsAtFirstBad_cons (hlo h1) fun h2 => stopsAtFirstBad_singleton (hf h1 h2)

theorem execSsc_stops (s : State) : StopsAtFirstBad s.profile .refused (frameAccesses s) (execSsc s) :=
  fun c hc => by rw [execSsc, enterHandler_stops _ _ s c hc]

/-- Every instruction is refused at the first unimplemented byte of its RAM accesses. The cases are the operand forms. -/
theorem exec_stops (i : Instr) (s : State) : StopsAtFirstBad s.profile .refused (ramAccesses i s) (exec i s) := by
  cases i with
  -- No RAM.
  | addAImm | adcAImm | subAImm | sbbAImm | andAImm | orAImm | xorAImm | cmpAImm | andF | orF | xorF
  | aslA | asrA | rlcA | rrcA | cplA | incA | decA | incX | decX
  | movAImm | movXImm | movAX | movXA | movXSp | swapAX | swapASp | addSp | nop | jmp | ljmp | jacc
  | jz | jnz | jc | jnc | romx | index
  | andReg | andRegIdx | orReg | orRegIdx | xorReg | xorRegIdx | tstReg | tstRegIdx
  | movAReg | movARegIdx | movRegA | movRegIdxA | movRegImm | movRegIdxImm | halt => exact stopsAtFirstBad_nil
  -- One RAM byte of the current page.
  | addADir | addAIdx | adcADir | adcAIdx | subADir | subAIdx | sbbADir | sbbAIdx
  | andADir | andAIdx | orADir | orAIdx | xorADir | xorAIdx => exact accRam_stops _ _ s
  | addDirA | addIdxA | addDirImm | addIdxImm | adcDirA | adcIdxA | adcDirImm | adcIdxImm
  | subDirA | subIdxA | subDirImm | subIdxImm | sbbDirA | sbbIdxA | sbbDirImm | sbbIdxImm
  | andDirA | andIdxA | andDirImm | andIdxImm | orDirA | orIdxA | orDirImm | orIdxImm
  | xorDirA | xorIdxA | xorDirImm | xorIdxImm => exact ramBin_stops _ _ _ _ s
  | aslDir | aslIdx | asrDir | asrIdx | rlcDir | rlcIdx | rrcDir | rrcIdx
  | incDir | incIdx | decDir | decIdx => exact unRam_stops _ _ s
  | cmpADir | cmpAIdx => exact testAccRam_stops _ _ s
  | cmpDirImm | cmpIdxImm | tstDir | tstIdx => exact testRam_stops _ _ _ s
  | movADir | movAIdx => exact loadARam_stops _ s
  | movXDir | movXIdx => exact loadXRam_stops _ s
  | movDirA | movIdxA | movDirImm | movIdxImm | movDirX => exact storeRam_stops _ _ _ s
  | swapADir => exact execSwapADir_stops _ s
  | swapXDir => exact execSwapXDir_stops _ s
  -- Two RAM bytes.
  | movDirDir => exact execMovDirDir_stops _ _ s
  | mviRead => exact execMviRead_stops _ s
  | mviWrite => exact execMviWrite_stops _ s
  -- The stack.
  | pushA => exact execPushA_stops s
  | pushX => exact execPushX_stops s
  | popA => exact execPopA_stops s
  | popX => exact execPopX_stops s
  | call | lcall => exact callTo_stops _ _ s
  | ret => exact execRet_stops s
  | reti => exact execReti_stops s
  | ssc => exact execSsc_stops s

/-! With all RAM implemented. -/

/-- The frame's three bytes are those whose implementation `FrameOk` asks for. -/
theorem frameOk_iff_firstBad_eq_none {s : State} : FrameOk s ↔ firstBad s.profile (frameAccesses s) = none := by
  simp [firstBad_eq_none, frameAccesses, FrameOk, StackOk]

/-- An instruction with a ROM address of its own, `ROMX` or `INDEX`, loads A from there (44_data_movement.md R361, R400). -/
theorem exec_eq_loadARom_of_romAccess {i : Instr} {s : State} {addr : Word} (h : romAccess i s = some addr) :
    ∃ n, exec i s = loadARom addr n s := by
  cases i with
  | romx =>
    obtain rfl := Option.some.inj h
    exact ⟨1, rfl⟩
  | index k =>
    obtain rfl := Option.some.inj h
    exact ⟨2, exec_index_eq_loadARom k s⟩
  | _ => cases h

theorem readsRom_eq_false_of_romAccess {i : Instr} {s : State} (h : romAccess i s = none) : readsRom i = false := by
  cases i with
  | romx | index => cases h
  | _ => rfl

/-- A supervisor call whose frame is implemented completes where the profile supplies its routine. -/
theorem execSsc_completes {s : State} (hframe : FrameOk s) (hsrom : s.profile.srom = true) :
    ∃ t, execSsc s = .next t := by
  obtain ⟨-, hcall⟩ := supervisorCallResult s
  obtain ⟨u, -, -, -, -, hcompletes⟩ := hcall hframe
  obtain ⟨t, ht, -⟩ := hcompletes hsrom
  exact ⟨t, ht⟩

/-- Settles O20: RAM stops an instruction first; after it only a missing routine or the instruction's own ROM byte can. -/
theorem instructionsNeverTrap : Obligations.InstructionsNeverTrap := by
  refine fun i s => ⟨exec_stops i s, fun hram => ⟨?_, ?_, ?_⟩⟩
  · rintro rfl hsrom
    obtain ⟨u, henter, -⟩ := enterHandler_result (s.pc + 1) 0x0000#16 (frameOk_iff_firstBad_eq_none.2 hram)
    exact execSsc_of_no_srom henter (by rw [(enterHandler_evolves henter).profile, hsrom])
  · intro addr haddr hrom
    obtain ⟨n, hexec⟩ := exec_eq_loadARom_of_romAccess haddr
    rw [hexec, loadARom_of_error (romRd_of_unreadable hrom)]
  · intro hsrom hrom
    by_cases hssc : i = .ssc
    · subst hssc
      exact execSsc_completes (frameOk_iff_firstBad_eq_none.2 hram) (hsrom rfl)
    · cases haddr : romAccess i s with
      | none =>
        exact exec_completes_of_ramAccesses_ok hssc (readsRom_eq_false_of_romAccess haddr) (firstBad_eq_none.1 hram)
      | some addr =>
        obtain ⟨n, hexec⟩ := exec_eq_loadARom_of_romAccess haddr
        obtain ⟨v, hv⟩ := romRd_of_not_unreadable (hrom addr haddr)
        exact ⟨_, hexec.trans (loadARom_eq_next.2 ⟨v, hv, rfl⟩)⟩

end Sys2Proof.Machine

/-! PROOFS. Interrupts: when a request is taken, what its entry does, and the return to the interrupted program. -/

namespace Sys2Proof.Machine

section
variable {s t : State} {n : Nat}

/-- F.GIE gates the report at this boundary (60_exceptions.md R443). -/
theorem takenIrq_eq_some : takenIrq s = some n ↔ flagGIE s.f = true ∧ s.irqs.head? = some (some n) := by
  cases hgie : flagGIE s.f with
  | false => simp [takenIrq, hgie]
  | true =>
    cases hirqs : s.irqs with
    | nil => simp [takenIrq, hgie, hirqs]
    | cons report later => cases report <;> simp [takenIrq, hgie, hirqs]

theorem step_of_takenIrq (hrun : s.halted = false) (htaken : takenIrq s = some n) :
    step s = ofExcept (enterHandler s.pollIrq s.pc (vectorOf s.profile n)) := by
  simp only [step, hrun, htaken, Bool.false_eq_true, if_false]
  rfl

theorem stepCycles_of_takenIrq (hrun : s.halted = false) (htaken : takenIrq s = some n) :
    stepCycles s = some 13 := by
  simp only [stepCycles, hrun, htaken, Bool.false_eq_true, if_false, interruptCycles]

/-- Where no undefined bit of F was ever set, F holds none that `spare` has to record (10_state.md R42). -/
theorem spare_or_undefinedBits_eq (h : (s.spare ||| s.f) &&& undefinedBits = 0x00#8) :
    s.spare ||| (s.f &&& undefinedBits) = s.spare := by
  ext i hi
  have hbit : ((s.spare ||| s.f) &&& undefinedBits)[i] = false := by rw [h, BitVec.getElem_zero]
  simp only [BitVec.getElem_and, BitVec.getElem_or] at hbit ⊢
  grind

/-- Where no undefined bit of F was ever set, an entry that completes is undone by the return, but for the three bytes of
its frame (60_exceptions.md R446, R447). -/
theorem returnFromInterrupt_of_enterHandler {ret target : Word} (h : enterHandler s ret target = .ok t)
    (hdefined : (s.spare ||| s.f) &&& undefinedBits = 0x00#8) :
    returnFromInterrupt t = .ok { s with ram := t.ram, pc := ret } := by
  obtain ⟨hhi, hlo, hf, ht⟩ := enterHandler_eq_ok.1 h
  obtain ⟨hhiByte, hloByte, -, hfByte, -⟩ := enterHandler_framePushed h
  rw [byte_add_one_add_one] at hf
  rw [observeF_defined hdefined] at ht
  have hok : ∀ addr, StackOk t addr ↔ StackOk s addr := stackOk_of_profile_eq (enterHandler_evolves h).profile
  have hsp : t.sp = s.sp + 3 := by
    rw [ht]
    bv_omega
  have hspare : t.spare = s.spare := by rw [ht]
  rw [returnFromInterrupt_of_frame hsp ((hok _).2 hhi) ((hok _).2 hlo) ((hok _).2 hf), hhiByte, hloByte,
    hfByte hdefined, longOperand_encodeLong, hspare, spare_or_undefinedBits_eq hdefined, ht]

end

/-! The obligations. -/

/-- Settles O8: the entry is the common one of `enterHandler`, from the state whose report is used up. -/
theorem interruptIsTaken : Obligations.InterruptIsTaken := by
  refine ⟨fun s n => takenIrq_eq_some, fun s n later hrun hgie hirqs hframe => ?_, fun s n c hrun htaken hbad => ?_⟩
  · have htaken : takenIrq s = some n := takenIrq_eq_some.2 ⟨hgie, by rw [hirqs, List.head?_cons]⟩
    obtain ⟨t, henter, hpushed, ht⟩ := enterHandler_result (s := s.pollIrq) s.pc (vectorOf s.profile n) hframe
    have hlater : s.pollIrq.irqs = later := congrArg List.tail hirqs
    rw [hlater] at ht
    exact ⟨t, by rw [step_of_takenIrq hrun htaken, henter, ofExcept_ok], hpushed, stepCycles_of_takenIrq hrun htaken, ht⟩
  · rw [step_of_takenIrq hrun htaken, enterHandler_stops _ _ s.pollIrq c hbad, ofExcept_error]

/-- Settles O10: the entry is undone by the return, and the frame says which RAM bytes it wrote. -/
theorem interruptedProgramResumes : Obligations.InterruptedProgramResumes := by
  intro s t n hrun htaken hdefined hstep
  rw [step_of_takenIrq hrun htaken] at hstep
  have henter := ofExcept_eq_next.1 hstep
  obtain ⟨-, -, -, -, hframe⟩ := enterHandler_framePushed henter
  have hreturn := returnFromInterrupt_of_enterHandler henter hdefined
  have hepoch : s.epoch = t.epoch := (enterHandler_evolves henter).epoch.symm
  refine ⟨{ s with ram := t.ram, irqs := s.irqs.tail }, execReti_eq_next.2 hreturn, rfl, fun j hhi hlo hf => ?_⟩
  calc ramByte { s with ram := t.ram, irqs := s.irqs.tail } j
    _ = ramByte t j := by
      apply ramByte_congr
      exacts [rfl, hepoch]
    _ = ramByte s j := hframe j hhi hlo hf

end Sys2Proof.Machine

/-! PROOFS. Hardware resets and program images: what a reset restarts, the ROM that a file gives, and Intel HEX records. -/

namespace Sys2Proof.Machine

/-! Resets (70_reset_and_hazards.md R490, R491). -/

/-- Every reset other than a watchdog reset disables the watchdog (70_reset_and_hazards.md R490). -/
theorem wdtAfter_of_ne_wdr {k : ResetKind} (wdt : Bool) (h : k ≠ .wdr) : wdtAfter k wdt = false := by
  cases k with
  | wdr => exact absurd rfl h
  | por | xres => rfl

/-- Settles O12: the register space is written from the profile's list over a background of 0x00, so that the last entry
of a location counts; RAM lists nothing, under the next reset's number. -/
theorem hardwareResetRestarts : Obligations.HardwareResetRestarts := by
  intro k s
  refine ⟨rfl, rfl, rfl, rfl, rfl, rfl, rfl, rfl, rfl, rfl, rfl, rfl, ?_, wdtAfter_of_ne_wdr s.wdt, fun _ => rfl,
    fun loc => Memory.readD_putAll_some 0x00#8 s.profile.regPowerOn [] loc⟩
  rintro rfl
  rfl

/-! The ROM file: bytes at ascending addresses (70_reset_and_hazards.md R496). -/

theorem Memory.read?_cellsFrom_add (addr i : Nat) (bs : List Byte) :
    Memory.read? (Memory.cellsFrom addr bs) (addr + i) = bs[i]? := by
  induction bs generalizing addr i with
  | nil => rfl
  | cons b bs ih =>
    cases i with
    | zero => exact if_pos rfl
    | succ i =>
      have hne : addr + (i + 1) ≠ addr := by omega
      calc Memory.read? ((addr, b) :: Memory.cellsFrom (addr + 1) bs) (addr + (i + 1))
        _ = Memory.read? (Memory.cellsFrom (addr + 1) bs) (addr + (i + 1)) := if_neg hne
        _ = Memory.read? (Memory.cellsFrom (addr + 1) bs) (addr + 1 + i) := by rw [Nat.add_right_comm, Nat.add_assoc]
        _ = (b :: bs)[i + 1]? := by rw [ih, List.getElem?_cons_succ]

theorem Memory.risingFrom_cellsFrom {lo addr : Nat} (bs : List Byte) (h : lo < addr) :
    Memory.risingFrom lo (Memory.cellsFrom addr bs) = true := by
  induction bs generalizing lo addr with
  | nil => rfl
  | cons b bs ih => simp [Memory.cellsFrom, Memory.risingFrom, h, ih]

/-- Bytes at ascending addresses are in the canonical form of a memory whose unlisted addresses have no byte. -/
theorem Memory.wf_cellsFrom (addr : Nat) (bs : List Byte) : Memory.wf none (Memory.cellsFrom addr bs) = true := by
  have hrising : Memory.rising (Memory.cellsFrom addr bs) = true := by
    cases bs with
    | nil => rfl
    | cons b bs => exact Memory.risingFrom_cellsFrom bs (Nat.lt_succ_self addr)
  simp [Memory.wf, hrising]

theorem Memory.lt_of_mem_cellsFrom {addr : Nat} {bs : List Byte} {c : Host.Cell} (h : c ∈ Memory.cellsFrom addr bs) :
    c.1 < addr + bs.length := by
  induction bs generalizing addr with
  | nil => cases h
  | cons b bs ih =>
    rw [List.length_cons]
    rcases List.mem_cons.1 h with rfl | htail
    · dsimp only
      omega
    · have := ih htail
      omega

theorem cellsBelow_iff {n : Nat} {m : List Host.Cell} : cellsBelow n m = true ↔ ∀ c ∈ m, c.1 < n := by
  simp [cellsBelow]

/-- A machine boots well formed where its ROM is well formed and its power-on register values lie in the two banks
(70_reset_and_hazards.md R491). -/
theorem inv_boot {p : Profile} {rom : List Host.Cell} (irqs : List (Option Nat))
    (hrom : Memory.wf none rom = true ∧ ∀ c ∈ rom, c.1 < 65536) (hregs : cellsBelow 512 p.regPowerOn = true) :
    Inv (State.boot p rom irqs) := by
  have hwritten : WrittenWithin (some 0x00#8) (· < 512) [] (Memory.putAll (some 0x00#8) [] p.regPowerOn) :=
    ⟨p.regPowerOn, cellsBelow_iff.1 hregs, rfl⟩
  obtain ⟨-, -, -, hspare, hf⟩ := resetIsWellFormed
  exact ⟨empty_memory_wf _ _, hwritten.keeps_wf (fun _ => id) (empty_memory_wf _ _), hrom, hspare, hf⟩

/-- Settles O59: the loaded ROM is the file's bytes at the addresses from 0 on, already canonical. -/
theorem loadedMachineStartsWellFormed : Obligations.LoadedMachineStartsWellFormed := by
  intro bs hlen
  have hwf := Memory.wf_cellsFrom 0 bs
  have hkeys : ∀ c ∈ Memory.cellsFrom 0 bs, c.1 < 65536 := fun c hc => by
    have := Memory.lt_of_mem_cellsFrom hc
    omega
  refine ⟨Memory.cellsFrom 0 bs, if_pos hlen, hwf, fun i => ?_,
    fun p irqs hregs => ⟨inv_boot irqs ⟨hwf, hkeys⟩ hregs, rfl⟩⟩
  simpa using Memory.read?_cellsFrom_add 0 i bs

/-! Hexadecimal text: the reader undoes the writer. -/

theorem digit?_digitChar : ∀ n < 16, Asm.digit? 16 (Nat.digitChar n) = some n := by decide

theorem hexByte?_digitChars (b : Byte) :
    hexByte? (Nat.digitChar (b.toNat / 16)) (Nat.digitChar (b.toNat % 16)) = some b := by
  have hhi : b.toNat / 16 < 16 := by have := b.isLt; omega
  have hlo : b.toNat % 16 < 16 := Nat.mod_lt _ (by decide)
  rw [hexByte?, digit?_digitChar _ hhi, digit?_digitChar _ hlo]
  dsimp only
  rw [Nat.div_add_mod', BitVec.ofNat_toNat, BitVec.setWidth_eq]

theorem hexBytes?_flatMap_hexText (bs : List Byte) : hexBytes? (bs.flatMap hexText) = some bs := by
  induction bs with
  | nil => rfl
  | cons b bs ih =>
    rw [List.flatMap_cons]
    simp only [hexText, List.cons_append, List.nil_append, hexBytes?, hexByte?_digitChars, ih]

/-! Checksums (70_reset_and_hazards.md R497). -/

theorem byteSum_append (bs cs : List Byte) : byteSum (bs ++ cs) = byteSum bs + byteSum cs := by
  induction bs with
  | nil => exact (BitVec.zero_add _).symm
  | cons b bs ih =>
    calc byteSum (b :: bs ++ cs)
      _ = b + byteSum (bs ++ cs) := rfl
      _ = b + byteSum bs + byteSum cs := by rw [ih, BitVec.add_assoc]

/-- A record's bytes with their checksum sum to 0 modulo 256. -/
theorem byteSum_append_checksum (bs : List Byte) : byteSum (bs ++ [checksum bs]) = 0x00#8 := by
  have hsingle : byteSum [checksum bs] = -byteSum bs := BitVec.add_zero _
  rw [byteSum_append, hsingle, BitVec.add_right_neg]

/-! Records: the bytes of one give it back, and bytes of another sum are none. -/

theorem hexKind?_code (k : HexKind) : hexKind? k.code = some k := by
  cases k <;> rfl

/-- The bytes after the type are the data and the checksum, and all of them sum to 0 (70_reset_and_hazards.md R497). -/
theorem hexRecordOf_cons (len hi lo ty : Byte) (rest : List Byte) :
    hexRecordOf (len :: hi :: lo :: ty :: rest) =
      if rest.length = len.toNat + 1 ∧ byteSum (len :: hi :: lo :: ty :: rest) = 0x00#8 then
        (hexKind? ty).map fun k => ⟨hi ++ lo, k, rest.take len.toNat⟩
      else none := rfl

theorem hexRecordOf_of_byteSum_ne_zero {bs : List Byte} (h : byteSum bs ≠ 0x00#8) : hexRecordOf bs = none := by
  match bs with
  | len :: hi :: lo :: ty :: rest => rw [hexRecordOf_cons, if_neg fun hok => h hok.2]
  | [] | [_] | [_, _] | [_, _, _] => rfl

/-- The bytes written for a record give it back, where its length fits the length byte. -/
theorem hexRecordOf_body_checksum {r : HexRecord} (h : r.data.length ≤ 255) :
    hexRecordOf (r.body ++ [checksum r.body]) = some r := by
  have hlen : (BitVec.ofNat 8 r.data.length).toNat = r.data.length := by
    rw [BitVec.toNat_ofNat]
    omega
  have hlength : (r.data ++ [checksum r.body]).length = (BitVec.ofNat 8 r.data.length).toNat + 1 := by
    rw [hlen, List.length_append, List.length_singleton]
  calc hexRecordOf (r.body ++ [checksum r.body])
    _ = (hexKind? r.kind.code).map fun k =>
          ⟨r.addr.extractLsb' 8 8 ++ r.addr.extractLsb' 0 8, k,
            (r.data ++ [checksum r.body]).take (BitVec.ofNat 8 r.data.length).toNat⟩ :=
        if_pos ⟨hlength, byteSum_append_checksum r.body⟩
    _ = some r := by rw [hexKind?_code, longOperand_encodeLong, hlen, List.take_left]; rfl

theorem parseRecord_text {r : HexRecord} (h : r.data.length ≤ 255) : parseRecord r.text = some r := by
  simp only [HexRecord.text, parseRecord, hexBytes?_flatMap_hexText, hexRecordOf_body_checksum h]

/-- Settles O58. The three printed records are closed text. -/
theorem hexRecordRoundTrips : Obligations.HexRecordRoundTrips := by
  refine ⟨fun _ h => parseRecord_text h, fun _ h => hexRecordOf_of_byteSum_ne_zero h, ?_, ?_, ?_⟩ <;> decide

end Sys2Proof.Machine
